-- ==== Sys2Proof/Word.lean ====
section
/-! DEFINITION. The word types of PADMODE-1: the byte of a byte string (00_scope.md R15), the 32-bit
register word (R16) and the byte string itself. -/

namespace Sys2Proof

/-- A byte, 0x00 to 0xFF (00_scope.md R15). -/
abbrev Byte := BitVec 8

/-- A 32-bit register or command word, bit 31 the most significant (00_scope.md R16). -/
abbrev Word := BitVec 32

/-- A byte string; the head of the list is X[0] (00_scope.md R15). -/
abbrev Bytes := List Byte

end Sys2Proof
end

