-- ==== Sys2Proof/Config.lean ====
section
/-! DEFINITION. What the platform fixes for a run (IN_CAP, BASE and the cipher port, 00_scope.md R10,
R11, R14) as plain data, and the free values of the model as opaque constants. -/

namespace Sys2Proof

/-- The status of the cipher port, with the 8-bit code of a failed key construction
(00_scope.md R11). -/
inductive CipherStatus
  | ok
  | failed (code : BitVec 8)
  deriving DecidableEq, Repr

/-- The cipher port of 00_scope.md R11. E is the permutation of the `bs`-byte blocks that `swaps`
lists as exchanges of two blocks, in order, and D is its inverse. Blocks are finitely many, so every
permutation is such a list. DESIGN CHOICE (log 1): safe, nothing about E is fixed but that it is a
permutation. -/
structure CipherPort where
  bs : Nat
  status : CipherStatus
  swaps : List (Bytes × Bytes)
  deriving DecidableEq, Repr

/-- The parameters of a run. IN_CAP and BASE are legal by construction: IN_CAP is a multiple of 4 in
[256, 28672] (00_scope.md R10) and BASE a multiple of 64 KiB (00_scope.md R14). -/
structure Params where
  capIndex : Fin 7105
  baseIndex : Nat
  cipher : CipherPort
  deriving DecidableEq, Repr

/-- IN_CAP, the capacity of the input buffer in bytes (00_scope.md R10). -/
def Params.inCap (p : Params) : Nat := 256 + 4 * p.capIndex.val

/-- OUT_CAP = IN_CAP + 512 (00_scope.md R10). -/
def Params.outCap (p : Params) : Nat := p.inCap + 512

/-- BASE, the bus address of the window (00_scope.md R14). -/
def Params.base (p : Params) : Nat := 0x10000 * p.baseIndex

namespace Config

/-- FREE VALUE (log 3): the exchanges of the cipher that the platform has bound at power-on. -/
opaque platformSwaps : List (Bytes × Bytes)

/-- FREE VALUE (log 4): whether the random source fails the request with this number, where `rng`
holds no answer (00_scope.md R13). -/
opaque rngFails : Nat → Bool

/-- FREE VALUE (log 4): the bytes the random source returns to the request with this number, where
`rng` holds none; the second argument is the place in the string (00_scope.md R13). -/
opaque rngByte : Nat → Nat → Byte

/-- FREE VALUE (log 5): the word that a draw read returns while BUSY, by the number of the draw
(20_memory.md R71). -/
opaque busyRead : Nat → Word

/-- FREE VALUE (log 6): the contents of IVB and INB after the power-on with this number, by window
offset (10_state.md R36, R37). -/
opaque powerOnByte : Nat → Nat → Byte

end Config

/-- The parameters State.reset stands with: IN_CAP is the spec's default 4096 (00_scope.md R10);
BASE 0, block size 16 and status ok are DESIGN CHOICES, unsafe (log 2); the cipher is free (log 3). -/
def Params.atReset : Params :=
  { capIndex := 960, baseIndex := 0,
    cipher := { bs := 16, status := .ok, swaps := Config.platformSwaps } }

end Sys2Proof
end

