-- ==== Sys2Proof/Syntax.lean ====
section
/-! DEFINITION. The command words as syntax: the closed enumerations of the spec (30_encoding.md R92,
R93), one constructor of `Instr` per row of the opcode table (R98), the raw fields of a word (R90) and
the names of the error codes (60_exceptions.md R251). -/

namespace Sys2Proof

/-- The padding schemes, in the order of their SCHEME values 0 to 6 (30_encoding.md R92). -/
inductive Scheme
  | none | zero | x923 | iso9797 | iso10126 | pkcs5 | pkcs7
  deriving DecidableEq, Repr

/-- The five non-authenticated modes, in the order of their MODE values 0 to 4 (30_encoding.md R93). -/
inductive ChainMode
  | ecb | cbc | cfb | ofb | ctr
  deriving DecidableEq, Repr

/-- The commands, one constructor per row of the opcode table (30_encoding.md R98). -/
inductive Instr
  | nop
  | clrstat
  | padNone
  | padZero
  | padX923
  | padIso9797
  | padIso10126
  | padPkcs5
  | padPkcs7
  | unpadNone
  | unpadZero
  | unpadX923
  | unpadIso9797
  | unpadIso10126
  | unpadPkcs5
  | unpadPkcs7
  | encEcb (sch : Scheme)
  | encCbc (sch : Scheme)
  | encCfb (sch : Scheme)
  | encOfb (sch : Scheme)
  | encCtr (sch : Scheme)
  | encGcm
  | decEcb (sch : Scheme)
  | decCbc (sch : Scheme)
  | decCfb (sch : Scheme)
  | decOfb (sch : Scheme)
  | decCtr (sch : Scheme)
  | decGcm
  deriving DecidableEq, Repr

/-- The raw fields of a command word (30_encoding.md R90): OP 3:0, SCHEME 6:4, the reserved bit 7,
MODE 10:8 and the reserved bits 31:11. -/
structure Fields where
  op : BitVec 4
  scheme : BitVec 3
  bit7 : BitVec 1
  mode : BitVec 3
  high : BitVec 21
  deriving DecidableEq, Repr

/-- The error details, one per row of the table of 60_exceptions.md R251. -/
inductive Err
  | blkszRange | inLenRange | ivLen | notBlockMultiple | pkcs5Bs | gcmBs | nonceLen
  | rngFail
  | tagMismatch | tooShort
  | cipherFailed
  | illegalOp | noncanonImm | rsvdBits | illegalScheme | modeNotZero | illegalMode | gcmScheme
  deriving DecidableEq, Repr

end Sys2Proof
end

