-- ==== Sys2Proof/WellFormed.lean ====
section
/-! DEFINITION. Which raw fields are a legal command, as unordered checks (30_encoding.md R98, R99).
The ordered checks that name the first error are the decoder's (R97, Decode.lean). The terms of `Instr`
need no check of their own: its constructors are the legal rows and `Scheme` is a closed enumeration. -/

namespace Sys2Proof

/-- OP is 0 to 5 (30_encoding.md R91). -/
def Fields.opLegal (f : Fields) : Bool := f.op.toNat ≤ 5

/-- NOP and CLRSTAT are exactly the words 0x0 and 0x5 (30_encoding.md R96). -/
def Fields.immediateCanonical (f : Fields) : Bool :=
  !(f.op = 0 || f.op = 5) || (f.scheme = 0 && f.bit7 = 0 && f.mode = 0 && f.high = 0)

/-- Bit 7 and bits 31:11 are 0 (30_encoding.md R90). -/
def Fields.reservedZero (f : Fields) : Bool := f.bit7 = 0 && f.high = 0

/-- SCHEME is not the reserved value 7 (30_encoding.md R92). -/
def Fields.schemeLegal (f : Fields) : Bool := f.scheme ≠ 7

/-- PAD and UNPAD have MODE 0 (30_encoding.md R93). -/
def Fields.padModeZero (f : Fields) : Bool := !(f.op = 1 || f.op = 2) || f.mode = 0

/-- ENC and DEC have a MODE of 0 to 5 (30_encoding.md R93). -/
def Fields.modeLegal (f : Fields) : Bool := !(f.op = 3 || f.op = 4) || f.mode.toNat ≤ 5

/-- GCM has SCHEME 0 (30_encoding.md R97). -/
def Fields.gcmSchemeZero (f : Fields) : Bool :=
  !((f.op = 3 || f.op = 4) && f.mode = 5) || f.scheme = 0

/-- The fields of a legal command word (30_encoding.md R98). -/
def Fields.wellFormed (f : Fields) : Bool :=
  f.opLegal && f.immediateCanonical && f.reservedZero && f.schemeLegal && f.padModeZero &&
    f.modeLegal && f.gcmSchemeZero

end Sys2Proof
end

