-- ==== Sys2Proof/Decode.lean ====
section
/-! DEFINITION. The decoder of command words (30_encoding.md R96, R97), total, naming the first error;
after it the encoder (R98, R103), and the decoder that R98 describes from the table alone. -/

namespace Sys2Proof

/-- The fields of a word: OP = w[3:0], SCHEME = w[6:4], MODE = w[10:8] (30_encoding.md R90). -/
def fieldsOf (w : Word) : Fields :=
  { op := w.extractLsb' 0 4, scheme := w.extractLsb' 4 3, bit7 := w.extractLsb' 7 1,
    mode := w.extractLsb' 8 3, high := w.extractLsb' 11 21 }

/-- The scheme of a SCHEME value, none for the reserved 7 (30_encoding.md R92). -/
def schemeOfField (v : BitVec 3) : Option Scheme :=
  if v = 0 then some .none else if v = 1 then some .zero else if v = 2 then some .x923
  else if v = 3 then some .iso9797 else if v = 4 then some .iso10126
  else if v = 5 then some .pkcs5 else if v = 6 then some .pkcs7 else none

/-- The non-authenticated mode of a MODE value 0 to 4 (30_encoding.md R93). -/
def modeOfField (v : BitVec 3) : Option ChainMode :=
  if v = 0 then some .ecb else if v = 1 then some .cbc else if v = 2 then some .cfb
  else if v = 3 then some .ofb else if v = 4 then some .ctr else none

/-- The PAD row of a scheme (30_encoding.md R98). -/
def padInstr : Scheme → Instr
  | .none => .padNone
  | .zero => .padZero
  | .x923 => .padX923
  | .iso9797 => .padIso9797
  | .iso10126 => .padIso10126
  | .pkcs5 => .padPkcs5
  | .pkcs7 => .padPkcs7

/-- The UNPAD row of a scheme (30_encoding.md R98). -/
def unpadInstr : Scheme → Instr
  | .none => .unpadNone
  | .zero => .unpadZero
  | .x923 => .unpadX923
  | .iso9797 => .unpadIso9797
  | .iso10126 => .unpadIso10126
  | .pkcs5 => .unpadPkcs5
  | .pkcs7 => .unpadPkcs7

/-- The ENC row of a mode with its scheme (30_encoding.md R98). -/
def encInstr (m : ChainMode) (sch : Scheme) : Instr :=
  match m with
  | .ecb => .encEcb sch
  | .cbc => .encCbc sch
  | .cfb => .encCfb sch
  | .ofb => .encOfb sch
  | .ctr => .encCtr sch

/-- The DEC row of a mode with its scheme (30_encoding.md R98). -/
def decInstr (m : ChainMode) (sch : Scheme) : Instr :=
  match m with
  | .ecb => .decEcb sch
  | .cbc => .decCbc sch
  | .cfb => .decCfb sch
  | .ofb => .decOfb sch
  | .ctr => .decCtr sch

/-- The rows of OP = ENC or DEC: `gcm` is the GCM row and `row` the row of a chain mode. The checks
ILLEGAL_MODE and GCM_SCHEME of 30_encoding.md R97. -/
def decodeMode (f : Fields) (sch : Scheme) (row : ChainMode → Scheme → Instr) (gcm : Instr) :
    Except Err Instr :=
  if f.mode = 5 then
    if sch = .none then .ok gcm else .error .gcmScheme
  else
    match modeOfField f.mode with
    | some m => .ok (row m sch)
    | none => .error .illegalMode

/-- The decode of the engine step, its checks in the order of 30_encoding.md R97. -/
def decodeEngine (w : Word) : Except Err Instr :=
  let f := fieldsOf w
  if f.op.toNat ≥ 6 then .error .illegalOp
  else if f.op = 0 ∨ f.op = 5 then .error .noncanonImm
  else if f.bit7 ≠ 0 ∨ f.high ≠ 0 then .error .rsvdBits
  else
    match schemeOfField f.scheme with
    | none => .error .illegalScheme
    | some sch =>
      if f.op = 1 then
        if f.mode = 0 then .ok (padInstr sch) else .error .modeNotZero
      else if f.op = 2 then
        if f.mode = 0 then .ok (unpadInstr sch) else .error .modeNotZero
      else if f.op = 3 then decodeMode f sch encInstr .encGcm
      else decodeMode f sch decInstr .decGcm

/-- The two immediate words of 30_encoding.md R96. -/
def decodeImmediate (w : Word) : Option Instr :=
  if w = 0x00000000 then some .nop
  else if w = 0x00000005 then some .clrstat
  else none

/-- The command that a word written to CMD stands for, or the error its engine step reports
(30_encoding.md R96, R97, R99). -/
def decode (w : Word) : Except Err Instr :=
  match decodeImmediate w with
  | some i => .ok i
  | none => decodeEngine w

/-! ### The encoder -/

/-- The SCHEME value of a scheme (30_encoding.md R92). -/
def Scheme.field : Scheme → BitVec 3
  | .none => 0
  | .zero => 1
  | .x923 => 2
  | .iso9797 => 3
  | .iso10126 => 4
  | .pkcs5 => 5
  | .pkcs7 => 6

/-- The encoding function enc(OP, SCHEME, MODE) of 30_encoding.md R103. -/
def encWord (op : BitVec 4) (scheme mode : BitVec 3) : Word :=
  op.setWidth 32 ||| (scheme.setWidth 32 <<< 4) ||| (mode.setWidth 32 <<< 8)

/-- The fields of each row, with OP from 30_encoding.md R91, SCHEME from R92 and MODE from R93. -/
def Instr.fields (i : Instr) : Fields :=
  let row (op : BitVec 4) (scheme mode : BitVec 3) : Fields :=
    { op := op, scheme := scheme, bit7 := 0, mode := mode, high := 0 }
  match i with
  | .nop => row 0 0 0
  | .clrstat => row 5 0 0
  | .padNone => row 1 0 0
  | .padZero => row 1 1 0
  | .padX923 => row 1 2 0
  | .padIso9797 => row 1 3 0
  | .padIso10126 => row 1 4 0
  | .padPkcs5 => row 1 5 0
  | .padPkcs7 => row 1 6 0
  | .unpadNone => row 2 0 0
  | .unpadZero => row 2 1 0
  | .unpadX923 => row 2 2 0
  | .unpadIso9797 => row 2 3 0
  | .unpadIso10126 => row 2 4 0
  | .unpadPkcs5 => row 2 5 0
  | .unpadPkcs7 => row 2 6 0
  | .encEcb sch => row 3 sch.field 0
  | .encCbc sch => row 3 sch.field 1
  | .encCfb sch => row 3 sch.field 2
  | .encOfb sch => row 3 sch.field 3
  | .encCtr sch => row 3 sch.field 4
  | .encGcm => row 3 0 5
  | .decEcb sch => row 4 sch.field 0
  | .decCbc sch => row 4 sch.field 1
  | .decCfb sch => row 4 sch.field 2
  | .decOfb sch => row 4 sch.field 3
  | .decCtr sch => row 4 sch.field 4
  | .decGcm => row 4 0 5

/-- The word of a command (30_encoding.md R98). -/
def encode (i : Instr) : Word :=
  encWord i.fields.op i.fields.scheme i.fields.mode

/-! ### The decoder of the table alone -/

/-- A row of 30_encoding.md R98: the match, whether the row is masked with 0xFFFFFF8F, and the
command of each scheme. -/
structure TableRow where
  pattern : Word
  masked : Bool
  command : Scheme → Instr

/-- The 28 rows of 30_encoding.md R98, in its order. -/
def opcodeRows : List TableRow :=
  [ ⟨0x00000000, false, fun _ => .nop⟩, ⟨0x00000005, false, fun _ => .clrstat⟩,
    ⟨0x00000001, false, fun _ => .padNone⟩, ⟨0x00000011, false, fun _ => .padZero⟩,
    ⟨0x00000021, false, fun _ => .padX923⟩, ⟨0x00000031, false, fun _ => .padIso9797⟩,
    ⟨0x00000041, false, fun _ => .padIso10126⟩, ⟨0x00000051, false, fun _ => .padPkcs5⟩,
    ⟨0x00000061, false, fun _ => .padPkcs7⟩ ] ++
  [ ⟨0x00000002, false, fun _ => .unpadNone⟩, ⟨0x00000012, false, fun _ => .unpadZero⟩,
    ⟨0x00000022, false, fun _ => .unpadX923⟩, ⟨0x00000032, false, fun _ => .unpadIso9797⟩,
    ⟨0x00000042, false, fun _ => .unpadIso10126⟩, ⟨0x00000052, false, fun _ => .unpadPkcs5⟩,
    ⟨0x00000062, false, fun _ => .unpadPkcs7⟩ ] ++
  [ ⟨0x00000003, true, .encEcb⟩, ⟨0x00000103, true, .encCbc⟩, ⟨0x00000203, true, .encCfb⟩,
    ⟨0x00000303, true, .encOfb⟩, ⟨0x00000403, true, .encCtr⟩,
    ⟨0x00000503, false, fun _ => .encGcm⟩ ] ++
  [ ⟨0x00000004, true, .decEcb⟩, ⟨0x00000104, true, .decCbc⟩, ⟨0x00000204, true, .decCfb⟩,
    ⟨0x00000304, true, .decOfb⟩, ⟨0x00000404, true, .decCtr⟩,
    ⟨0x00000504, false, fun _ => .decGcm⟩ ]

/-- What one row reads from a word: compare `w & mask` with the match, and for a masked row require
SCHEME ≠ 7 (30_encoding.md R98). -/
def TableRow.read (r : TableRow) (w : Word) : Option Instr :=
  if r.masked then
    if w &&& 0xFFFFFF8F = r.pattern then (schemeOfField (w.extractLsb' 4 3)).map r.command
    else none
  else if w = r.pattern then some (r.command .none)
  else none

/-- The decoder that 30_encoding.md R98 describes from its table alone; the engine does not use it,
it is there for claims that the two agree. -/
def decodeByTable (w : Word) : Option Instr := opcodeRows.findSome? fun r => r.read w

/-! ### The host's reading of the opcode table -/

/-- What the decoder reads from the word whose bits are `w`, bits from `nbits` up being 0. A command
is one 32-bit word (30_encoding.md R100), delivered whole by one bus write, so no byte order enters. -/
def decodeTableWord (nbits w : Nat) : Option Instr :=
  match decode (BitVec.ofNat 32 (w % 2 ^ nbits)) with
  | .ok i => some i
  | .error _ => none

end Sys2Proof
end

