-- ==== Sys2Proof/Machine/State.lean ====
section
/-! DEFINITION. The state of PADMODE-1 as plain data (10_state.md, listed in INVENTORY.md), the reasons
a step can stop, and the state after power-on reset (70_reset_and_hazards.md R290). -/

namespace Sys2Proof.Machine

/-- Why a step stops. Only host accesses stop a step, never a command. -/
inductive Fault
  /-- Raised by a bus access that is not 32 bits wide or not at a multiple of 4: the bus error
  response (20_memory.md R66). Safe: the spec gives this outcome. -/
  | busError
  /-- Raised by a bus access whose address is outside the 64 KiB window, which is no access to this
  hardware (20_memory.md R60, log 10). Safe: the model says nothing of such an access. -/
  | outsideWindow
  deriving DecidableEq, Repr

/-- Why a step has no meaning. -/
inductive Refusal
  /-- Raised by an arm of `exec` that has no meaning yet; no arm is left so. Safe. -/
  | notModelled (mnemonic : String)
  deriving DecidableEq, Repr

/-- ENG, the engine state: IDLE, or BUSY with the latched command word (10_state.md R33). -/
inductive Engine
  | idle
  | busy (w : Word)
  deriving DecidableEq, Repr

/-- One event of the single order in which host accesses, the engine's step and the reset input take
effect (20_memory.md R72, 70_reset_and_hazards.md R290, R302). Addresses are bus addresses, widths
are in bits. -/
inductive Event
  | read (addr width : Nat)
  | write (addr width : Nat) (v : Word)
  | engine
  | powerOn
  deriving DecidableEq, Repr

/-- One answer of the random source to a request of k bytes: fail, or bytes (00_scope.md R13). Where
the list is shorter than k the missing bytes are free values (log 4). -/
inductive RngAnswer
  | fail
  | bytes (b : Bytes)
  deriving DecidableEq, Repr

/-- The bytes of IVB, INB and OUTB by window offset, a list in canonical form (Ops.lean). -/
abbrev Memory := List Host.Cell

/-- The state of the machine. STATUS.BUSY, STATUS.IRQ, ID, CAPS and CIPHER_INFO are computed from it
(Flags.lean, Bus.lean). -/
structure State where
  /-- IN_CAP, BASE and the cipher port, constants of a run (00_scope.md R10, R11, R14; log 1). -/
  params : Params
  /-- CTRL.IE_DONE (10_state.md R23). -/
  ieDone : Bool
  /-- CTRL.IE_FAIL (10_state.md R23). -/
  ieFail : Bool
  /-- CMD_LAST (10_state.md R24). -/
  cmdLast : Word
  /-- STATUS.DONE (10_state.md R25). -/
  done : Bool
  /-- STATUS.FAIL (10_state.md R25). -/
  fail : Bool
  /-- STATUS.MALF (10_state.md R25). -/
  malf : Bool
  /-- STATUS.WERR (10_state.md R25). -/
  werr : Bool
  /-- BLKSZ (10_state.md R26). -/
  blksz : Word
  /-- ERR (10_state.md R27). -/
  err : Word
  /-- IN_LEN (10_state.md R29). -/
  inLen : Word
  /-- OUT_LEN (10_state.md R30). -/
  outLen : Word
  /-- IV_LEN (10_state.md R31). -/
  ivLen : Word
  /-- BLOCKS (10_state.md R32). -/
  blocks : Word
  /-- IVB, INB and OUTB (10_state.md R36 to R38). -/
  mem : Memory
  /-- ENG (10_state.md R33); STATUS.BUSY is 1 exactly when it is `busy`. -/
  eng : Engine
  /-- The model's own: the events to come, first the next (log 7). -/
  schedule : List Event
  /-- The model's own: the word the last bus access returned to the host (log 11). -/
  response : Option Word
  /-- The model's own: the answers the random source will give next (log 4). -/
  rng : List RngAnswer
  /-- The model's own: how many draws have been taken (log 4, 5). -/
  draws : Nat
  /-- The model's own: how many power-on resets have happened after the first (log 6). -/
  powerOns : Nat
  deriving DecidableEq, Repr

/-- The state after power-on reset (70_reset_and_hazards.md R290). IVB and INB list no byte, and an
unlisted byte of theirs reads as a free value. The values of the model's own fields and of `params`
are DESIGN CHOICES (log 2, 3, 4, 6, 7, 11). -/
def State.reset : State :=
  { params := Params.atReset
    ieDone := false
    ieFail := false
    cmdLast := 0x00000000
    done := false
    fail := false
    malf := false
    werr := false
    blksz := 0x00000010
    err := 0x00000000
    inLen := 0x00000000
    outLen := 0x00000000
    ivLen := 0x00000000
    blocks := 0x00000000
    mem := []
    eng := .idle
    schedule := []
    response := none
    rng := []
    draws := 0
    powerOns := 0 }

end Sys2Proof.Machine
end

