-- ==== Sys2Proof/Machine/Ops.lean ====
section
/-! DEFINITION. The named operations of PADMODE-1: the window's byte memory, the two oracles, command
acceptance, the two completions, and the two resets. An error completion is this hardware's exception
entry (60_exceptions.md R262, R267); there is no return from it, a host acknowledges it by W1C
(Flags.lean), CLRSTAT or the next acceptance (R268). -/

namespace Sys2Proof.Machine

/-! ### The window -/

/-- Window offset of IVB[0] (20_memory.md R61). -/
def ivbBase : Nat := 0x100

/-- Window offset just after IVB[255] (20_memory.md R61). -/
def ivbEnd : Nat := 0x200

/-- Window offset of INB[0] (20_memory.md R61). -/
def inbBase : Nat := 0x1000

/-- Window offset just after INB's last byte (20_memory.md R61). -/
def inbEnd (p : Params) : Nat := inbBase + p.inCap

/-- Window offset of OUTB[0] (20_memory.md R61). -/
def outbBase : Nat := 0x8000

/-- Window offset just after OUTB's last byte (20_memory.md R61). -/
def outbEnd (p : Params) : Nat := outbBase + p.outCap

/-- What a window offset that memory does not list holds: in IVB and in the input window no value yet
(its power-on draw, 10_state.md R36, R37), elsewhere 0x00 (OUTB after reset, R38). -/
def unlisted (a : Nat) : Option Byte :=
  if (ivbBase ≤ a ∧ a < ivbEnd) ∨ (inbBase ≤ a ∧ a < outbBase) then none else some 0x00

/-- The listed or default contents of a window offset; none is an unwritten power-on byte. -/
def Memory.read (m : Memory) (a : Nat) : Option Byte :=
  match m with
  | [] => unlisted a
  | (b, v) :: rest => if a = b then some v else Memory.read rest a

/-- Memory with every byte of an offset set removed from the list. -/
def Memory.forget (m : Memory) (inside : Nat → Bool) : Memory :=
  m.filter fun c => !inside c.1

/-- The list with a cell put at its place in the rising order of offsets. -/
def Memory.insert (m : Memory) (a : Nat) (v : Byte) : Memory :=
  match m with
  | [] => [(a, v)]
  | (b, u) :: rest => if a < b then (a, v) :: (b, u) :: rest else (b, u) :: Memory.insert rest a v

/-- One byte written; the value an unlisted offset holds is not listed. -/
def Memory.write (m : Memory) (a : Nat) (v : Byte) : Memory :=
  let others := m.forget fun b => b == a
  if unlisted a = some v then others else others.insert a v

/-- Consecutive bytes written from an offset up. -/
def Memory.writeBytes (m : Memory) (a : Nat) (bs : Bytes) : Memory :=
  match bs with
  | [] => m
  | b :: rest => Memory.writeBytes (m.write a b) (a + 1) rest

/-- The canonical form: offsets strictly rise and no cell holds what an unlisted offset holds. -/
def Memory.wf (m : Memory) : Bool :=
  match m with
  | [] => true
  | (a, v) :: rest =>
    decide (unlisted a ≠ some v) && rest.all (fun c => decide (a < c.1)) && Memory.wf rest

/-- The byte of the machine at a window offset: what memory holds there, or the power-on draw of an
unwritten byte of IVB or INB, a FREE VALUE (10_state.md R36, R37; log 6). -/
def State.byteAt (s : State) (a : Nat) : Byte :=
  match s.mem.read a with
  | some v => v
  | none => Config.powerOnByte s.powerOns a

/-- IVB[i] (00_scope.md R17). -/
def State.ivByte (s : State) (i : Nat) : Byte := s.byteAt (ivbBase + i)

/-- INB[i] (00_scope.md R17). -/
def State.inByte (s : State) (i : Nat) : Byte := s.byteAt (inbBase + i)

/-- OUTB[i] (00_scope.md R17). -/
def State.outByte (s : State) (i : Nat) : Byte := s.byteAt (outbBase + i)

/-- The little-endian word at a window offset (20_memory.md R65). -/
def State.wordAt (s : State) (a : Nat) : Word :=
  (s.byteAt a).setWidth 32 ||| ((s.byteAt (a + 1)).setWidth 32 <<< 8) |||
    ((s.byteAt (a + 2)).setWidth 32 <<< 16) ||| ((s.byteAt (a + 3)).setWidth 32 <<< 24)

/-- Memory with a word stored at a window offset, byte j from bits 8j+7 to 8j (20_memory.md R65). -/
def Memory.writeWord (m : Memory) (a : Nat) (v : Word) : Memory :=
  m.writeBytes a
    [v.extractLsb' 0 8, v.extractLsb' 8 8, v.extractLsb' 16 8, v.extractLsb' 24 8]

/-- OUTB <- Y ++ 0x00^(OUT_CAP - |Y|) (60_exceptions.md R261). -/
def Memory.setOutput (m : Memory) (p : Params) (Y : Bytes) : Memory :=
  (m.forget fun a => decide (outbBase ≤ a ∧ a < outbEnd p)).writeBytes outbBase Y

/-! ### The oracles -/

/-- One exchange of two blocks. -/
def swapBlocks (x y b : Bytes) : Bytes :=
  if b = x then y else if b = y then x else b

/-- The exchanges of a port that act on blocks of its own size; others do nothing (log 1). -/
def blockSwaps (c : CipherPort) : List (Bytes × Bytes) :=
  c.swaps.filter fun p => decide (p.1.length = c.bs ∧ p.2.length = c.bs)

/-- E, the single-block encrypt of the cipher port (00_scope.md R11). -/
def cipherE (c : CipherPort) (b : Bytes) : Bytes :=
  (blockSwaps c).foldl (fun x p => swapBlocks p.1 p.2 x) b

/-- D, the single-block decrypt of the cipher port: the exchanges undone, the last one first
(00_scope.md R11). -/
def cipherD (c : CipherPort) (b : Bytes) : Bytes :=
  (blockSwaps c).foldr (fun p x => swapBlocks p.1 p.2 x) b

/-- RandomBytes(k): k bytes or fail, and the state after the request (00_scope.md R13, R17). Where
`rng` gives no answer, or too few bytes, the answer is a FREE VALUE (log 4). -/
def randomBytes (k : Nat) (s : State) : Option Bytes × State :=
  let fresh (j : Nat) : Byte := Config.rngByte s.draws j
  let answer : Option Bytes :=
    match s.rng with
    | [] => if Config.rngFails s.draws then none else some ((List.range k).map fresh)
    | .fail :: _ => none
    | .bytes b :: _ => some ((List.range k).map fun j => b.getD j (fresh j))
  (answer, { s with rng := s.rng.tail, draws := s.draws + 1 })

/-- The word of a draw read, a FREE VALUE, and the state after it (20_memory.md R71; log 5). -/
def drawWord (s : State) : Word × State :=
  (Config.busyRead s.draws, { s with draws := s.draws + 1 })

/-! ### Error codes -/

/-- ERR.CLASS of an error (60_exceptions.md R250, R251). -/
def errClass : Err → Nat
  | .blkszRange | .inLenRange | .ivLen | .notBlockMultiple | .pkcs5Bs | .gcmBs | .nonceLen => 1
  | .rngFail => 2
  | .tagMismatch | .tooShort => 3
  | .cipherFailed => 4
  | .illegalOp | .noncanonImm | .rsvdBits | .illegalScheme | .modeNotZero | .illegalMode
  | .gcmScheme => 5

/-- ERR.DETAIL of an error (60_exceptions.md R251). -/
def errDetail : Err → Nat
  | .blkszRange => 1
  | .inLenRange => 2
  | .ivLen => 3
  | .notBlockMultiple => 4
  | .pkcs5Bs => 5
  | .gcmBs => 6
  | .nonceLen => 7
  | .rngFail => 1
  | .tagMismatch => 1
  | .tooShort => 2
  | .cipherFailed => 1
  | .illegalOp => 1
  | .noncanonImm => 2
  | .rsvdBits => 3
  | .illegalScheme => 4
  | .modeNotZero => 5
  | .illegalMode => 6
  | .gcmScheme => 7

/-- The value ERR reads: CLASS | DETAIL << 8 (60_exceptions.md R251). -/
def errWord (e : Err) : Word :=
  BitVec.ofNat 32 (errClass e) ||| (BitVec.ofNat 32 (errDetail e) <<< 8)

/-! ### Acceptance, completion, reset -/

/-- Command acceptance of word w (10_state.md R34). -/
def accept (w : Word) (s : State) : State :=
  { s with eng := .busy w, cmdLast := w, done := false, fail := false, malf := false }

/-- Success completion commit(Y, k, mal) (60_exceptions.md R261). -/
def commit (Y : Bytes) (k : Nat) (mal : Bool) (s : State) : State :=
  { s with
    mem := s.mem.setOutput s.params Y
    outLen := BitVec.ofNat 32 Y.length
    blocks := BitVec.ofNat 32 k
    err := 0x00000000
    malf := mal
    done := true
    fail := false
    eng := .idle }

/-- Error completion raise Class(Detail) (60_exceptions.md R262): the one exception entry of this
hardware, which goes to no handler (R267). -/
def raiseError (e : Err) (s : State) : State :=
  { s with
    mem := s.mem.setOutput s.params []
    outLen := 0x00000000
    blocks := 0x00000000
    err := errWord e
    malf := false
    done := false
    fail := true
    eng := .idle }

/-- The soft reset of 70_reset_and_hazards.md R292, at any engine state. -/
def softReset (s : State) : State :=
  { s with
    eng := .idle
    ieDone := false
    ieFail := false
    cmdLast := 0x00000000
    done := false
    fail := false
    malf := false
    werr := false
    blksz := 0x00000010
    err := 0x00000000
    inLen := 0x00000000
    outLen := 0x00000000
    ivLen := 0x00000000
    blocks := 0x00000000
    mem := s.mem.setOutput s.params [] }

/-- The reset input asserted and released (70_reset_and_hazards.md R290): as a soft reset, and IVB and
INB hold fresh draws. The oracles and the platform's parameters are not changed. -/
def powerOnReset (s : State) : State :=
  { softReset s with mem := [], powerOns := s.powerOns + 1 }

end Sys2Proof.Machine
end

