-- ==== Sys2Proof/Machine/Flags.lean ====
section
/-! DEFINITION. The flags: STATUS, CTRL and the interrupt output as words, W1C, and what each write to
them does (10_state.md R23, R25, R43; 60_exceptions.md R265). -/

namespace Sys2Proof.Machine

/-- A flag at its bit of a register word. -/
def flagBit (b : Bool) (n : Nat) : Word := if b then (1 : Word) <<< n else 0

/-- STATUS.BUSY (10_state.md R33). -/
def State.isBusy (s : State) : Bool :=
  match s.eng with
  | .idle => false
  | .busy _ => true

/-- The interrupt output (60_exceptions.md R265). -/
def State.irq (s : State) : Bool := (s.done && s.ieDone) || (s.fail && s.ieFail)

/-- The value STATUS reads (10_state.md R25). -/
def State.statusWord (s : State) : Word :=
  flagBit s.isBusy 0 ||| flagBit s.done 1 ||| flagBit s.fail 2 ||| flagBit s.malf 3 |||
    flagBit s.werr 4 ||| flagBit s.irq 5

/-- The value CTRL reads; SRST always reads 0 (10_state.md R23). -/
def State.ctrlWord (s : State) : Word := flagBit s.ieDone 1 ||| flagBit s.ieFail 2

/-- A write to STATUS: each of bits 4:1 whose written value is 1 is cleared (10_state.md R25). -/
def writeStatus (v : Word) (s : State) : State :=
  { s with
    done := s.done && !v.getLsbD 1
    fail := s.fail && !v.getLsbD 2
    malf := s.malf && !v.getLsbD 3
    werr := s.werr && !v.getLsbD 4 }

/-- A write to CTRL: the soft reset alone when bit 0 is 1, else bits 2:1 are stored
(10_state.md R23). -/
def writeCtrl (v : Word) (s : State) : State :=
  if v.getLsbD 0 then softReset s
  else { s with ieDone := v.getLsbD 1, ieFail := v.getLsbD 2 }

/-- The drop of a write while BUSY: STATUS.WERR <- 1 and nothing else (20_memory.md R71). -/
def dropWrite (s : State) : State := { s with werr := true }

/-- The flags and ERR as CLRSTAT leaves them (44_control.md R231). -/
def clearStatus (s : State) : State :=
  { s with done := false, fail := false, malf := false, werr := false, err := 0x00000000 }

end Sys2Proof.Machine
end

