-- ==== Sys2Proof/Machine/Control.lean ====
section
/-! DEFINITION. The meanings of the two immediate commands (44_control.md R230, R231). They are what the
CMD write does while ENG is IDLE; a CMD write while BUSY is dropped before it reaches them
(30_encoding.md R96, Bus.lean). -/

namespace Sys2Proof.Machine

/-- NOP: CMD_LAST <- 0x00000000 (44_control.md R230). -/
def execNop (s : State) : Host.Outcome State Fault Refusal := .next { s with cmdLast := 0x00000000 }

/-- CLRSTAT: CMD_LAST <- 0x00000005, the sticky flags and ERR cleared (44_control.md R231). -/
def execClrstat (s : State) : Host.Outcome State Fault Refusal :=
  .next (clearStatus { s with cmdLast := 0x00000005 })

end Sys2Proof.Machine
end

