-- ==== Sys2Proof/Machine/Operands.lean ====
section
/-! DEFINITION. The operands of the commands and their checks: the byte-string notation of 00_scope.md
R15 and R16, the data and IV operands (30_encoding.md R95), and the checks of 60_exceptions.md R254 to
R260 in the order of R253. -/

namespace Sys2Proof.Machine

/-! ### Byte strings and integers -/

/-- X xor Y, byte by byte (00_scope.md R15). -/
def xorBytes (X Y : Bytes) : Bytes := List.zipWith (fun a b => a ^^^ b) X Y

/-- ceil(n / bs), the number of segments (00_scope.md R15). -/
def segmentCount (bs n : Nat) : Nat := (n + bs - 1) / bs

/-- The first `k` segments of `bs` bytes, the last one as short as the data leaves it. -/
def cutSegments (bs : Nat) (k : Nat) (X : Bytes) : List Bytes :=
  match k with
  | 0 => []
  | k + 1 => X.take bs :: cutSegments bs k (X.drop bs)

/-- blocks_bs(X) (00_scope.md R15). -/
def segments (bs : Nat) (X : Bytes) : List Bytes := cutSegments bs (segmentCount bs X.length) X

/-- BE(X), big-endian (00_scope.md R16). -/
def bigEndian (X : Bytes) : Nat := X.foldl (fun n b => n * 256 + b.toNat) 0

/-- BEbytes_k(v), the k bytes of v mod 256^k, big-endian (00_scope.md R16). -/
def bigEndianBytes (k v : Nat) : Bytes :=
  (List.range k).map fun j => BitVec.ofNat 8 (v / 256 ^ (k - 1 - j))

/-! ### The operands -/

/-- The data operand INB[0..IN_LEN) (30_encoding.md R95). -/
def dataOperand (s : State) : Bytes := (List.range s.inLen.toNat).map s.inByte

/-- The IV or nonce operand IVB[0..n) (30_encoding.md R95). -/
def ivOperand (n : Nat) (s : State) : Bytes := (List.range n).map s.ivByte

/-! ### The checks -/

/-- The first check that fails (60_exceptions.md R253). -/
def firstError (checks : List (Option Err)) : Option Err := checks.findSome? fun c => c

/-- The cipher status check (60_exceptions.md R254). -/
def checkCipher (c : CipherPort) : Option Err :=
  match c.status with
  | .ok => none
  | .failed _ => some .cipherFailed

/-- The input-length check (60_exceptions.md R256). -/
def checkInLen (s : State) : Option Err :=
  if s.inLen.toNat > s.params.inCap then some .inLenRange else none

/-- The block-size range check (60_exceptions.md R255). -/
def checkBlockSize (bs : Nat) : Option Err :=
  if bs < 1 ∨ bs > 256 then some .blkszRange else none

/-- The PKCS5 check (60_exceptions.md R257). -/
def checkPkcs5 (sch : Scheme) (bs : Nat) : Option Err :=
  if sch = .pkcs5 ∧ bs ≠ 8 then some .pkcs5Bs else none

/-- The GCM block-size check (43_gcm.md R201). -/
def checkGcmBlockSize (bs : Nat) : Option Err := if bs ≠ 16 then some .gcmBs else none

/-- The GCM nonce-length check (43_gcm.md R201). -/
def checkNonceLen (s : State) : Option Err :=
  if s.ivLen.toNat ≠ 12 then some .nonceLen else none

/-- The IV-length check, which ECB skips (60_exceptions.md R259). -/
def checkIvLen (m : ChainMode) (bs : Nat) (s : State) : Option Err :=
  if m ≠ .ecb ∧ s.ivLen.toNat ≠ bs then some .ivLen else none

/-- The block-multiple check of an encryption: ECB and CBC with SCHEME NONE (60_exceptions.md R260). -/
def checkEncMultiple (m : ChainMode) (sch : Scheme) (bs : Nat) (s : State) : Option Err :=
  if (m = .ecb ∨ m = .cbc) ∧ sch = .none ∧ s.inLen.toNat % bs ≠ 0 then some .notBlockMultiple
  else none

/-- The block-multiple check of a decryption: ECB and CBC with any SCHEME (60_exceptions.md R260). -/
def checkDecMultiple (m : ChainMode) (bs : Nat) (s : State) : Option Err :=
  if (m = .ecb ∨ m = .cbc) ∧ s.inLen.toNat % bs ≠ 0 then some .notBlockMultiple else none

/-- The checks of a PAD command (41_padding.md R122). -/
def padChecks (sch : Scheme) (s : State) : Option Err :=
  firstError [checkInLen s, checkBlockSize s.blksz.toNat, checkPkcs5 sch s.blksz.toNat]

/-- The check of an UNPAD command (41_padding.md R131). -/
def unpadChecks (s : State) : Option Err := firstError [checkInLen s]

/-- The checks of an ENC command (42_block_modes.md R160). -/
def encChecks (m : ChainMode) (sch : Scheme) (s : State) : Option Err :=
  let c := s.params.cipher
  firstError [checkCipher c, checkInLen s, checkBlockSize c.bs, checkPkcs5 sch c.bs,
    checkIvLen m c.bs s, checkEncMultiple m sch c.bs s]

/-- The checks of a DEC command (42_block_modes.md R161). -/
def decChecks (m : ChainMode) (sch : Scheme) (s : State) : Option Err :=
  let c := s.params.cipher
  firstError [checkCipher c, checkInLen s, checkBlockSize c.bs, checkPkcs5 sch c.bs,
    checkIvLen m c.bs s, checkDecMultiple m c.bs s]

/-- The five checks of both GCM commands (43_gcm.md R206). -/
def gcmChecks (s : State) : Option Err :=
  let c := s.params.cipher
  firstError [checkCipher c, checkInLen s, checkBlockSize c.bs, checkGcmBlockSize c.bs,
    checkNonceLen s]

end Sys2Proof.Machine
end

