-- ==== Sys2Proof/Machine/Padding.lean ====
section
/-! DEFINITION. The padding engine (41_padding.md): the pad and unpad functions, which the ENC and DEC
commands reuse (R144), and the meanings of the fourteen PAD and UNPAD commands. -/

namespace Sys2Proof.Machine

/-! ### Pad functions -/

/-- PadCount(L, bs) (41_padding.md R120). -/
def padCount (L bs : Nat) : Nat := bs - L % bs

/-- cb(n) = n mod 256, the count byte (41_padding.md R121). -/
def countByte (n : Nat) : Byte := BitVec.ofNat 8 n

/-- Identity padding (41_padding.md R123). -/
def padNoneFn (D : Bytes) : Bytes := D

/-- Zero padding (41_padding.md R124). -/
def padZeroFn (D : Bytes) (bs : Nat) : Bytes := D ++ List.replicate (padCount D.length bs) 0x00

/-- ANSI X.923 padding (41_padding.md R125). -/
def padX923Fn (D : Bytes) (bs : Nat) : Bytes :=
  let n := padCount D.length bs
  D ++ List.replicate (n - 1) 0x00 ++ [countByte n]

/-- ISO/IEC 9797-1 padding, method 2 (41_padding.md R126). -/
def padIso9797Fn (D : Bytes) (bs : Nat) : Bytes := padZeroFn (D ++ [0x80]) bs

/-- ISO 10126 padding with the random bytes `R` (41_padding.md R127). -/
def padIso10126Fn (D : Bytes) (bs : Nat) (R : Bytes) : Bytes :=
  D ++ R ++ [countByte (padCount D.length bs)]

/-- PKCS #7 padding (41_padding.md R129). -/
def padPkcs7Fn (D : Bytes) (bs : Nat) : Bytes :=
  let n := padCount D.length bs
  D ++ List.replicate n (countByte n)

/-- PKCS #5 padding (41_padding.md R128). -/
def padPkcs5Fn (D : Bytes) : Bytes := padPkcs7Fn D 8

/-- PadFn(s, D, bs) with the random bytes `R` of ISO 10126 (41_padding.md R123 to R129). -/
def padFn (sch : Scheme) (D : Bytes) (bs : Nat) (R : Bytes) : Bytes :=
  match sch with
  | .none => padNoneFn D
  | .zero => padZeroFn D bs
  | .x923 => padX923Fn D bs
  | .iso9797 => padIso9797Fn D bs
  | .iso10126 => padIso10126Fn D bs R
  | .pkcs5 => padPkcs5Fn D
  | .pkcs7 => padPkcs7Fn D bs

/-- How many random bytes the pad step asks for: n - 1 for ISO 10126 and none for the others
(41_padding.md R127). -/
def fillCount (sch : Scheme) (L bs : Nat) : Nat :=
  match sch with
  | .iso10126 => padCount L bs - 1
  | _ => 0

/-- The random bytes of the pad step. The source is asked only when a byte is needed
(41_padding.md R127). -/
def fillBytes (sch : Scheme) (L bs : Nat) (s : State) : Option Bytes × State :=
  if fillCount sch L bs = 0 then (some [], s) else randomBytes (fillCount sch L bs) s

/-- The pad step on the data operand: the padded string, or none when the random source fails, and
the state after it (41_padding.md R122, 42_block_modes.md R160). -/
def padStep (sch : Scheme) (bs : Nat) (s : State) : Option Bytes × State :=
  let D := dataOperand s
  let fill := fillBytes sch D.length bs s
  (fill.1.map (padFn sch D bs), fill.2)

/-! ### Unpad functions -/

/-- ZeroStrip(X) (41_padding.md R133). -/
def zeroStrip (X : Bytes) : Bytes := (X.reverse.dropWhile fun b => b == 0x00).reverse

/-- CountUnpad(X), with its malformed flag (41_padding.md R134). -/
def countUnpad (X : Bytes) : Bytes × Bool :=
  match X.getLast? with
  | none => ([], true)
  | some b =>
    let n := b.toNat
    if n = 0 then (X, true)
    else if n > X.length then ([], true)
    else (X.take (X.length - n), false)

/-- UnpadFn(ISO9797, X) (41_padding.md R136). -/
def unpadIso9797Fn (X : Bytes) : Bytes × Bool :=
  let Z := zeroStrip X
  match Z.getLast? with
  | none => ([], true)
  | some b => (Z.take (Z.length - 1), b != 0x80)

/-- UnpadFn(s, X), with the malformed flag of R137 (41_padding.md R132 to R140). -/
def unpadFn (sch : Scheme) (X : Bytes) : Bytes × Bool :=
  match sch with
  | .none => (X, false)
  | .zero => (zeroStrip X, false)
  | .x923 => countUnpad X
  | .iso9797 => unpadIso9797Fn X
  | .iso10126 => countUnpad X
  | .pkcs5 => countUnpad X
  | .pkcs7 => countUnpad X

/-! ### The commands -/

/-- The PAD command flow (41_padding.md R122). -/
def runPad (sch : Scheme) (s : State) : State :=
  match padChecks sch s with
  | some e => raiseError e s
  | none =>
    match padStep sch s.blksz.toNat s with
    | (none, s') => raiseError .rngFail s'
    | (some Y, s') => commit Y 0 false s'

/-- The UNPAD command flow (41_padding.md R131). -/
def runUnpad (sch : Scheme) (s : State) : State :=
  match unpadChecks s with
  | some e => raiseError e s
  | none =>
    let unpadded := unpadFn sch (dataOperand s)
    commit unpadded.1 0 unpadded.2 s

/-- PAD.NONE (41_padding.md R123). -/
def execPadNone (s : State) : Host.Outcome State Fault Refusal := .next (runPad .none s)

/-- PAD.ZERO (41_padding.md R124). -/
def execPadZero (s : State) : Host.Outcome State Fault Refusal := .next (runPad .zero s)

/-- PAD.X923 (41_padding.md R125). -/
def execPadX923 (s : State) : Host.Outcome State Fault Refusal := .next (runPad .x923 s)

/-- PAD.ISO9797 (41_padding.md R126). -/
def execPadIso9797 (s : State) : Host.Outcome State Fault Refusal := .next (runPad .iso9797 s)

/-- PAD.ISO10126 (41_padding.md R127). -/
def execPadIso10126 (s : State) : Host.Outcome State Fault Refusal := .next (runPad .iso10126 s)

/-- PAD.PKCS5 (41_padding.md R128). -/
def execPadPkcs5 (s : State) : Host.Outcome State Fault Refusal := .next (runPad .pkcs5 s)

/-- PAD.PKCS7 (41_padding.md R129). -/
def execPadPkcs7 (s : State) : Host.Outcome State Fault Refusal := .next (runPad .pkcs7 s)

/-- UNPAD.NONE (41_padding.md R132). -/
def execUnpadNone (s : State) : Host.Outcome State Fault Refusal := .next (runUnpad .none s)

/-- UNPAD.ZERO (41_padding.md R133). -/
def execUnpadZero (s : State) : Host.Outcome State Fault Refusal := .next (runUnpad .zero s)

/-- UNPAD.X923 (41_padding.md R135). -/
def execUnpadX923 (s : State) : Host.Outcome State Fault Refusal := .next (runUnpad .x923 s)

/-- UNPAD.ISO9797 (41_padding.md R136). -/
def execUnpadIso9797 (s : State) : Host.Outcome State Fault Refusal := .next (runUnpad .iso9797 s)

/-- UNPAD.ISO10126 (41_padding.md R138). -/
def execUnpadIso10126 (s : State) : Host.Outcome State Fault Refusal := .next (runUnpad .iso10126 s)

/-- UNPAD.PKCS5 (41_padding.md R139). -/
def execUnpadPkcs5 (s : State) : Host.Outcome State Fault Refusal := .next (runUnpad .pkcs5 s)

/-- UNPAD.PKCS7 (41_padding.md R140). -/
def execUnpadPkcs7 (s : State) : Host.Outcome State Fault Refusal := .next (runUnpad .pkcs7 s)

end Sys2Proof.Machine
end

