-- ==== Sys2Proof/Machine/BlockModes.lean ====
section
/-! DEFINITION. The mode engine for ECB, CBC, CFB, OFB and CTR (42_block_modes.md): the mode functions
on segments and the meanings of the ten ENC and DEC commands. -/

namespace Sys2Proof.Machine

/-! ### Mode functions, on the segments of R162 -/

/-- ModeEnc_ECB (42_block_modes.md R163). -/
def ecbEnc (c : CipherPort) (P : List Bytes) : List Bytes := P.map (cipherE c)

/-- ModeDec_ECB (42_block_modes.md R164). -/
def ecbDec (c : CipherPort) (C : List Bytes) : List Bytes := C.map (cipherD c)

/-- ModeEnc_CBC, `prev` being C_{i-1} (42_block_modes.md R165). -/
def cbcEnc (c : CipherPort) (prev : Bytes) (P : List Bytes) : List Bytes :=
  match P with
  | [] => []
  | p :: rest =>
    let ci := cipherE c (xorBytes p prev)
    ci :: cbcEnc c ci rest

/-- ModeDec_CBC, `prev` being C_{i-1} (42_block_modes.md R166). -/
def cbcDec (c : CipherPort) (prev : Bytes) (C : List Bytes) : List Bytes :=
  match C with
  | [] => []
  | ci :: rest => xorBytes (cipherD c ci) prev :: cbcDec c ci rest

/-- X_i xor prefix(K_i, |X_i|) (42_block_modes.md R162). -/
def xorKeystream (X K : Bytes) : Bytes := xorBytes X (K.take X.length)

/-- ModeEnc_CFB, `prev` being C_{i-1} (42_block_modes.md R167). -/
def cfbEnc (c : CipherPort) (prev : Bytes) (P : List Bytes) : List Bytes :=
  match P with
  | [] => []
  | p :: rest =>
    let ci := xorKeystream p (cipherE c prev)
    ci :: cfbEnc c ci rest

/-- ModeDec_CFB, `prev` being C_{i-1}; D is never called (42_block_modes.md R168). -/
def cfbDec (c : CipherPort) (prev : Bytes) (C : List Bytes) : List Bytes :=
  match C with
  | [] => []
  | ci :: rest => xorKeystream ci (cipherE c prev) :: cfbDec c ci rest

/-- OFB in both directions, `prev` being K_{i-1} (42_block_modes.md R169 to R171). -/
def ofbApply (c : CipherPort) (prev : Bytes) (X : List Bytes) : List Bytes :=
  match X with
  | [] => []
  | x :: rest =>
    let k := cipherE c prev
    xorKeystream x k :: ofbApply c k rest

/-- The counter block ctr_i (42_block_modes.md R172). -/
def counterBlock (bs : Nat) (iv : Bytes) (i : Nat) : Bytes := bigEndianBytes bs (bigEndian iv + i)

/-- CTR in both directions, from counter block `i` on (42_block_modes.md R172 to R174). -/
def ctrApply (c : CipherPort) (iv : Bytes) (i : Nat) (X : List Bytes) : List Bytes :=
  match X with
  | [] => []
  | x :: rest => xorKeystream x (cipherE c (counterBlock c.bs iv i)) :: ctrApply c iv (i + 1) rest

/-- The output segments of ModeEnc_m (42_block_modes.md R163 to R173). -/
def modeEncSegments (m : ChainMode) (c : CipherPort) (iv : Bytes) (P : List Bytes) : List Bytes :=
  match m with
  | .ecb => ecbEnc c P
  | .cbc => cbcEnc c iv P
  | .cfb => cfbEnc c iv P
  | .ofb => ofbApply c iv P
  | .ctr => ctrApply c iv 0 P

/-- The output segments of ModeDec_m (42_block_modes.md R164 to R174). -/
def modeDecSegments (m : ChainMode) (c : CipherPort) (iv : Bytes) (C : List Bytes) : List Bytes :=
  match m with
  | .ecb => ecbDec c C
  | .cbc => cbcDec c iv C
  | .cfb => cfbDec c iv C
  | .ofb => ofbApply c iv C
  | .ctr => ctrApply c iv 0 C

/-- ModeEnc_m(P, IV): the output string and the BLOCKS value (42_block_modes.md R162). -/
def modeEnc (m : ChainMode) (c : CipherPort) (iv P : Bytes) : Bytes × Nat :=
  ((modeEncSegments m c iv (segments c.bs P)).flatten, segmentCount c.bs P.length)

/-- ModeDec_m(C, IV): the output string and the BLOCKS value (42_block_modes.md R162). -/
def modeDec (m : ChainMode) (c : CipherPort) (iv C : Bytes) : Bytes × Nat :=
  ((modeDecSegments m c iv (segments c.bs C)).flatten, segmentCount c.bs C.length)

/-! ### The commands -/

/-- The ENC command flow (42_block_modes.md R160). -/
def runEnc (m : ChainMode) (sch : Scheme) (s : State) : State :=
  match encChecks m sch s with
  | some e => raiseError e s
  | none =>
    match padStep sch s.params.cipher.bs s with
    | (none, s') => raiseError .rngFail s'
    | (some P, s') =>
      let result := modeEnc m s.params.cipher (ivOperand s.params.cipher.bs s) P
      commit result.1 result.2 false s'

/-- The DEC command flow (42_block_modes.md R161). -/
def runDec (m : ChainMode) (sch : Scheme) (s : State) : State :=
  match decChecks m sch s with
  | some e => raiseError e s
  | none =>
    let plain := modeDec m s.params.cipher (ivOperand s.params.cipher.bs s) (dataOperand s)
    let unpadded := unpadFn sch plain.1
    commit unpadded.1 plain.2 unpadded.2 s

/-- ENC.ECB (42_block_modes.md R163). -/
def execEncEcb (sch : Scheme) (s : State) : Host.Outcome State Fault Refusal :=
  .next (runEnc .ecb sch s)

/-- ENC.CBC (42_block_modes.md R165). -/
def execEncCbc (sch : Scheme) (s : State) : Host.Outcome State Fault Refusal :=
  .next (runEnc .cbc sch s)

/-- ENC.CFB (42_block_modes.md R167). -/
def execEncCfb (sch : Scheme) (s : State) : Host.Outcome State Fault Refusal :=
  .next (runEnc .cfb sch s)

/-- ENC.OFB (42_block_modes.md R170). -/
def execEncOfb (sch : Scheme) (s : State) : Host.Outcome State Fault Refusal :=
  .next (runEnc .ofb sch s)

/-- ENC.CTR (42_block_modes.md R173). -/
def execEncCtr (sch : Scheme) (s : State) : Host.Outcome State Fault Refusal :=
  .next (runEnc .ctr sch s)

/-- DEC.ECB (42_block_modes.md R164). -/
def execDecEcb (sch : Scheme) (s : State) : Host.Outcome State Fault Refusal :=
  .next (runDec .ecb sch s)

/-- DEC.CBC (42_block_modes.md R166). -/
def execDecCbc (sch : Scheme) (s : State) : Host.Outcome State Fault Refusal :=
  .next (runDec .cbc sch s)

/-- DEC.CFB (42_block_modes.md R168). -/
def execDecCfb (sch : Scheme) (s : State) : Host.Outcome State Fault Refusal :=
  .next (runDec .cfb sch s)

/-- DEC.OFB (42_block_modes.md R171). -/
def execDecOfb (sch : Scheme) (s : State) : Host.Outcome State Fault Refusal :=
  .next (runDec .ofb sch s)

/-- DEC.CTR (42_block_modes.md R174). -/
def execDecCtr (sch : Scheme) (s : State) : Host.Outcome State Fault Refusal :=
  .next (runDec .ctr sch s)

end Sys2Proof.Machine
end

