-- ==== Sys2Proof/Machine/Gcm.lean ====
section
/-! DEFINITION. GCM with an empty AAD, a 12-byte nonce and a 16-byte tag (43_gcm.md): the arithmetic of
R202 to R205 and the meanings of ENC.GCM and DEC.GCM. -/

namespace Sys2Proof.Machine

/-! ### GF(2^128) -/

/-- The constant R = 0xE1 << 120 (43_gcm.md R202). -/
def gfReduction : Nat := 0xE1 <<< 120

/-- V halved, with R added when its low bit was 1 (43_gcm.md R202). -/
def gfHalve (V : Nat) : Nat :=
  if V % 2 = 0 then V >>> 1 else (V >>> 1) ^^^ gfReduction

/-- The last `n` rounds of the product's loop: round i of R202 tests bit 127 - i of `x`. -/
def gfRounds (x n Z V : Nat) : Nat :=
  match n with
  | 0 => Z
  | n + 1 => gfRounds x n (if x.testBit n then Z ^^^ V else Z) (gfHalve V)

/-- The product X • Y of two blocks (43_gcm.md R202). -/
def gfMul (X Y : Bytes) : Bytes := bigEndianBytes 16 (gfRounds (bigEndian X) 128 0 (bigEndian Y))

/-! ### GHASH, counters, tag -/

/-- The 16-byte string of zeros. -/
def zeroBlock : Bytes := List.replicate 16 0x00

/-- GHASH_H(S) (43_gcm.md R203). -/
def ghash (H S : Bytes) : Bytes :=
  (segments 16 S).foldl (fun Y B => gfMul (xorBytes Y B) H) zeroBlock

/-- inc32(X) (43_gcm.md R204). -/
def inc32 (X : Bytes) : Bytes := X.take 12 ++ bigEndianBytes 4 (bigEndian (X.drop 12) + 1)

/-- J0 of a 12-byte nonce (43_gcm.md R204). -/
def gcmJ0 (N : Bytes) : Bytes := N ++ [0x00, 0x00, 0x00, 0x01]

/-- GCTR on segments, `cb` being the counter block of the first (43_gcm.md R204). -/
def gctrSegments (c : CipherPort) (cb : Bytes) (X : List Bytes) : List Bytes :=
  match X with
  | [] => []
  | x :: rest => xorKeystream x (cipherE c cb) :: gctrSegments c (inc32 cb) rest

/-- GCTR(ICB, X) (43_gcm.md R204). -/
def gctr (c : CipherPort) (icb X : Bytes) : Bytes :=
  (gctrSegments c icb (segments 16 X)).flatten

/-- The string GHASH runs over: C, zeros to a whole block, and the two lengths in bits, the AAD's
being 0 (43_gcm.md R205). -/
def gcmHashInput (C : Bytes) : Bytes :=
  C ++ List.replicate (16 * segmentCount 16 C.length - C.length) 0x00 ++
    bigEndianBytes 8 0 ++ bigEndianBytes 8 (8 * C.length)

/-- Tag(N, C) (43_gcm.md R205). -/
def gcmTag (c : CipherPort) (N C : Bytes) : Bytes :=
  xorBytes (cipherE c (gcmJ0 N)) (ghash (cipherE c zeroBlock) (gcmHashInput C))

/-! ### The commands -/

/-- The ENC.GCM command flow (43_gcm.md R206). -/
def runEncGcm (s : State) : State :=
  match gcmChecks s with
  | some e => raiseError e s
  | none =>
    let P := dataOperand s
    let N := ivOperand 12 s
    let C := gctr s.params.cipher (inc32 (gcmJ0 N)) P
    commit (C ++ gcmTag s.params.cipher N C) (segmentCount 16 P.length) false s

/-- The DEC.GCM command flow (43_gcm.md R207). -/
def runDecGcm (s : State) : State :=
  match gcmChecks s with
  | some e => raiseError e s
  | none =>
    let X := dataOperand s
    let N := ivOperand 12 s
    if X.length < 16 then raiseError .tooShort s
    else
      let C := X.take (X.length - 16)
      let T := X.drop (X.length - 16)
      if gcmTag s.params.cipher N C ≠ T then raiseError .tagMismatch s
      else commit (gctr s.params.cipher (inc32 (gcmJ0 N)) C) (segmentCount 16 C.length) false s

/-- ENC.GCM (43_gcm.md R206). -/
def execEncGcm (s : State) : Host.Outcome State Fault Refusal := .next (runEncGcm s)

/-- DEC.GCM (43_gcm.md R207). -/
def execDecGcm (s : State) : Host.Outcome State Fault Refusal := .next (runDecGcm s)

end Sys2Proof.Machine
end

