-- ==== Sys2Proof/Machine/Dispatch.lean ====
section
/-! DEFINITION. One meaning per command. For the two immediate commands it is what the CMD write does,
for the others what the engine step does once the word is decoded (30_encoding.md R96, R97). -/

namespace Sys2Proof.Machine

def exec (i : Instr) (s : State) : Host.Outcome State Fault Refusal :=
  match i with
  | .nop => Sys2Proof.Machine.execNop s
  | .clrstat => Sys2Proof.Machine.execClrstat s
  | .padNone => Sys2Proof.Machine.execPadNone s
  | .padZero => Sys2Proof.Machine.execPadZero s
  | .padX923 => Sys2Proof.Machine.execPadX923 s
  | .padIso9797 => Sys2Proof.Machine.execPadIso9797 s
  | .padIso10126 => Sys2Proof.Machine.execPadIso10126 s
  | .padPkcs5 => Sys2Proof.Machine.execPadPkcs5 s
  | .padPkcs7 => Sys2Proof.Machine.execPadPkcs7 s
  | .unpadNone => Sys2Proof.Machine.execUnpadNone s
  | .unpadZero => Sys2Proof.Machine.execUnpadZero s
  | .unpadX923 => Sys2Proof.Machine.execUnpadX923 s
  | .unpadIso9797 => Sys2Proof.Machine.execUnpadIso9797 s
  | .unpadIso10126 => Sys2Proof.Machine.execUnpadIso10126 s
  | .unpadPkcs5 => Sys2Proof.Machine.execUnpadPkcs5 s
  | .unpadPkcs7 => Sys2Proof.Machine.execUnpadPkcs7 s
  | .encEcb sch => Sys2Proof.Machine.execEncEcb sch s
  | .encCbc sch => Sys2Proof.Machine.execEncCbc sch s
  | .encCfb sch => Sys2Proof.Machine.execEncCfb sch s
  | .encOfb sch => Sys2Proof.Machine.execEncOfb sch s
  | .encCtr sch => Sys2Proof.Machine.execEncCtr sch s
  | .encGcm => Sys2Proof.Machine.execEncGcm s
  | .decEcb sch => Sys2Proof.Machine.execDecEcb sch s
  | .decCbc sch => Sys2Proof.Machine.execDecCbc sch s
  | .decCfb sch => Sys2Proof.Machine.execDecCfb sch s
  | .decOfb sch => Sys2Proof.Machine.execDecOfb sch s
  | .decCtr sch => Sys2Proof.Machine.execDecCtr sch s
  | .decGcm => Sys2Proof.Machine.execDecGcm s

end Sys2Proof.Machine
end

