-- ==== Sys2Proof/Machine/Bus.lean ====
section
/-! DEFINITION. The bus and the engine: the window map (20_memory.md R61), host reads and writes in both
engine states (R66 to R71), the dispatch of a CMD write (30_encoding.md R96) and the engine's step
(10_state.md R33). -/

namespace Sys2Proof.Machine

/-! ### The window map -/

/-- The twelve registers (10_state.md R21 to R32). -/
inductive Reg
  | id | caps | ctrl | cmd | status | blksz | err | cipherInfo | inLen | outLen | ivLen | blocks
  deriving DecidableEq, Repr

/-- What stands at a window offset (20_memory.md R61). -/
inductive Place
  /-- A register. -/
  | reg (r : Reg)
  /-- A byte of IVB. -/
  | ivb
  /-- A byte of INB. -/
  | inb
  /-- A byte of OUTB. -/
  | outb
  /-- The output window beyond OUT_CAP, RAZ/WI (20_memory.md R64). -/
  | pastOutb
  /-- A reserved offset, or the input window beyond IN_CAP: RAZ/WI (10_state.md R39, 20_memory.md R63). -/
  | reserved
  deriving DecidableEq, Repr

/-- The register at an aligned offset (20_memory.md R61). -/
def regAt (off : Nat) : Option Reg :=
  if off = 0x000 then some .id
  else if off = 0x004 then some .caps
  else if off = 0x008 then some .ctrl
  else if off = 0x00C then some .cmd
  else if off = 0x010 then some .status
  else if off = 0x014 then some .blksz
  else if off = 0x018 then some .err
  else if off = 0x01C then some .cipherInfo
  else if off = 0x020 then some .inLen
  else if off = 0x024 then some .outLen
  else if off = 0x028 then some .ivLen
  else if off = 0x02C then some .blocks
  else none

/-- The window map of 20_memory.md R61 for an aligned offset. -/
def placeAt (p : Params) (off : Nat) : Place :=
  match regAt off with
  | some r => .reg r
  | none =>
    if ivbBase ≤ off ∧ off < ivbEnd then .ivb
    else if inbBase ≤ off ∧ off < inbEnd p then .inb
    else if outbBase ≤ off ∧ off < outbEnd p then .outb
    else if outbEnd p ≤ off then .pastOutb
    else .reserved

/-! ### Reads -/

/-- The constant ID reads (10_state.md R21). -/
def idWord : Word := 0x504D0001

/-- The value CAPS reads (10_state.md R22). -/
def capsWord (p : Params) : Word := BitVec.ofNat 32 p.inCap ||| flagBit true 16

/-- The value CIPHER_INFO reads (10_state.md R28). -/
def cipherInfoWord (c : CipherPort) : Word :=
  let cbs : Word := BitVec.ofNat 32 (c.bs % 65536)
  match c.status with
  | .ok => cbs
  | .failed code => cbs ||| flagBit true 16 ||| (code.setWidth 32 <<< 24)

/-- The value a register reads while IDLE (10_state.md R21 to R32). -/
def readReg (r : Reg) (s : State) : Word :=
  match r with
  | .id => idWord
  | .caps => capsWord s.params
  | .ctrl => s.ctrlWord
  | .cmd => s.cmdLast
  | .status => s.statusWord
  | .blksz => s.blksz
  | .err => s.err
  | .cipherInfo => cipherInfoWord s.params.cipher
  | .inLen => s.inLen
  | .outLen => s.outLen
  | .ivLen => s.ivLen
  | .blocks => s.blocks

/-- The value MemRead gives at an aligned offset while IDLE (20_memory.md R67). -/
def readPlace (off : Nat) (s : State) : Word :=
  match placeAt s.params off with
  | .reg r => readReg r s
  | .ivb | .inb | .outb => s.wordAt off
  | .pastOutb | .reserved => 0x00000000

/-- Whether a read of this place returns a draw while BUSY (20_memory.md R71): ERR, OUT_LEN, BLOCKS and
any offset of the output window. -/
def Place.drawsWhenBusy : Place → Bool
  | .reg .err | .reg .outLen | .reg .blocks => true
  | .outb | .pastOutb => true
  | _ => false

/-- MemRead(off, 4) (20_memory.md R67, R71): the word is returned to the host, and nothing else of the
machine changes. -/
def busRead (off : Nat) (s : State) : State :=
  if s.isBusy && (placeAt s.params off).drawsWhenBusy then
    let draw := drawWord s
    { draw.2 with response := some draw.1 }
  else { s with response := some (readPlace off s) }

/-! ### Writes -/

/-- The dispatch of a word written to CMD (30_encoding.md R96). -/
def writeCmd (w : Word) (s : State) : Host.Outcome State Fault Refusal :=
  if s.isBusy then .next (dropWrite s)
  else
    match decodeImmediate w with
    | some i => exec i s
    | none => .next (accept w s)

/-- A write that is stored while IDLE and dropped while BUSY (20_memory.md R68, R71). -/
def storeUnlessBusy (s stored : State) : Host.Outcome State Fault Refusal :=
  .next (if s.isBusy then dropWrite s else stored)

/-- MemWrite(off, 4, v) (20_memory.md R68, R71). A write returns no data to the host. -/
def busWrite (off : Nat) (v : Word) (before : State) : Host.Outcome State Fault Refusal :=
  let s := { before with response := none }
  match placeAt s.params off with
  | .reg .ctrl => .next (writeCtrl v s)
  | .reg .cmd => writeCmd v s
  | .reg .status => .next (writeStatus v s)
  | .reg .blksz => storeUnlessBusy s { s with blksz := v }
  | .reg .inLen => storeUnlessBusy s { s with inLen := v }
  | .reg .ivLen => storeUnlessBusy s { s with ivLen := v }
  | .ivb | .inb => storeUnlessBusy s { s with mem := s.mem.writeWord off v }
  | .reg .id | .reg .caps | .reg .err | .reg .cipherInfo | .reg .outLen | .reg .blocks => .next s
  | .outb | .pastOutb | .reserved => .next s

/-- The window offset of a bus address, or the reason the access gets none: outside the window
(20_memory.md R60), or not 32 bits wide or not aligned (R66). -/
def accessOffset (p : Params) (addr width : Nat) : Except Fault Nat :=
  if p.base ≤ addr ∧ addr < p.base + 0x10000 then
    if width = 32 ∧ (addr - p.base) % 4 = 0 then .ok (addr - p.base) else .error .busError
  else .error .outsideWindow

/-! ### The engine -/

/-- The engine step of BUSY(w): decode, validate, execute and complete (10_state.md R33,
30_encoding.md R97). -/
def engineStep (w : Word) (s : State) : Host.Outcome State Fault Refusal :=
  match decodeEngine w with
  | .ok i => exec i s
  | .error e => .next (raiseError e s)

/-- The Engine agent's turn: its one enabled step while BUSY, none while IDLE (10_state.md R33). -/
def engineTurn (s : State) : Host.Outcome State Fault Refusal :=
  match s.eng with
  | .idle => .next s
  | .busy w => engineStep w s

/-- One event takes effect (20_memory.md R69, R72). -/
def takeEvent (e : Event) (s : State) : Host.Outcome State Fault Refusal :=
  match e with
  | .read addr width =>
    match accessOffset s.params addr width with
    | .ok off => .next (busRead off s)
    | .error r => .fault r
  | .write addr width v =>
    match accessOffset s.params addr width with
    | .ok off => busWrite off v s
    | .error r => .fault r
  | .engine => engineTurn s
  | .powerOn => .next (powerOnReset s)

end Sys2Proof.Machine
end

