-- ==== Sys2Proof/Machine/Step.lean ====
section
/-! DEFINITION. One step: the next event of the schedule takes effect; when the schedule is used up the
engine has its turn (20_memory.md R72, 70_reset_and_hazards.md R302, log 7 and 8). -/

namespace Sys2Proof.Machine

/-- One step of the machine. With an empty schedule a BUSY engine steps, which is its weak fairness
(70_reset_and_hazards.md R302), and an IDLE machine waits unchanged, which is the end of a run
(20_memory.md R80). -/
def step (s : State) : Host.Outcome State Fault Refusal :=
  match s.schedule with
  | [] => engineTurn s
  | e :: rest => takeEvent e { s with schedule := rest }

/-- The state whose next step runs the command word `w % 2^nbits`: an immediate word stands as the next
bus write to CMD of an IDLE machine; any other has been accepted and the engine steps next (log 7). -/
def State.withFetchWord (s : State) (nbits w : Nat) : State :=
  let c : Word := BitVec.ofNat 32 (w % 2 ^ nbits)
  match decodeImmediate c with
  | some _ =>
    { s with eng := .idle, schedule := .write (s.params.base + 0x00C) 32 c :: s.schedule }
  | none => { accept c s with schedule := .engine :: s.schedule }

end Sys2Proof.Machine
end

