-- ==== Sys2Proof/Safety.lean ====
section
/-! DEFINITION. What claims about the machine are made of: the blocks of a string as 00_scope.md R15
gives them, what the two completions leave (60_exceptions.md R261, R262), the invariant of the
reachable states, and which schedules and runs are safe (20_memory.md R66, R80). -/

namespace Sys2Proof.Machine

/-- X_i of blocks_bs(X), the slice X[i*bs .. min((i+1)*bs, |X|)) (00_scope.md R15). -/
def blockAt (bs : Nat) (X : Bytes) (i : Nat) : Bytes := (X.drop (i * bs)).take bs

/-- The value before place `i` of a chain that starts with `first`: element i - 1, or `first` at 0. -/
def before (first : Bytes) (chain : List Bytes) (i : Nat) : Bytes :=
  if i = 0 then first else chain.getD (i - 1) []

/-- What no command changes: the parameters, CTRL, CMD_LAST, WERR, the operand registers, the events
to come, the bus response, and every byte outside OUTB (20_memory.md R70, 70_reset_and_hazards.md
R298). -/
structure HostFrame (s t : State) : Prop where
  params : t.params = s.params
  ieDone : t.ieDone = s.ieDone
  ieFail : t.ieFail = s.ieFail
  cmdLast : t.cmdLast = s.cmdLast
  werr : t.werr = s.werr
  blksz : t.blksz = s.blksz
  inLen : t.inLen = s.inLen
  ivLen : t.ivLen = s.ivLen
  schedule : t.schedule = s.schedule
  response : t.response = s.response
  powerOns : t.powerOns = s.powerOns
  bytes : ∀ a, ¬(outbBase ≤ a ∧ a < outbEnd s.params) → t.byteAt a = s.byteAt a

/-- The random source was not asked and no draw was taken. -/
structure OracleUnused (s t : State) : Prop where
  rng : t.rng = s.rng
  draws : t.draws = s.draws

/-- The random source was asked once (00_scope.md R13). -/
structure OracleAskedOnce (s t : State) : Prop where
  rng : t.rng = s.rng.tail
  draws : t.draws = s.draws + 1

/-- `t` is `s` after the success completion commit(Y, k, mal) (60_exceptions.md R261), whose output
fits in OUTB (00_scope.md R10), and nothing else is changed but the oracle's fields. -/
structure Completed (s t : State) (Y : Bytes) (k : Nat) (mal : Bool) : Prop where
  idle : t.eng = .idle
  done : t.done = true
  fail : t.fail = false
  malf : t.malf = mal
  err : t.err = 0x00000000
  outLen : t.outLen.toNat = Y.length
  blocks : t.blocks.toNat = k
  fits : Y.length ≤ s.params.outCap
  out : ∀ j, j < s.params.outCap → t.outByte j = Y.getD j 0x00
  frame : HostFrame s t

/-- `t` is `s` after the error completion of `e` (60_exceptions.md R262), and nothing else is changed
but the oracle's fields. -/
structure Failed (s t : State) (e : Err) : Prop where
  idle : t.eng = .idle
  done : t.done = false
  fail : t.fail = true
  malf : t.malf = false
  err : t.err = errWord e
  outLen : t.outLen = 0x00000000
  blocks : t.blocks = 0x00000000
  out : ∀ j, j < s.params.outCap → t.outByte j = 0x00
  frame : HostFrame s t

/-- What every register, flag and output byte holds after a reset of `s`, and what no reset changes:
the parameters, the oracles and the events to come (70_reset_and_hazards.md R290). -/
structure AfterReset (s t : State) : Prop where
  idle : t.eng = .idle
  ieDone : t.ieDone = false
  ieFail : t.ieFail = false
  cmdLast : t.cmdLast = 0x00000000
  status : t.statusWord = 0x00000000
  werr : t.werr = false
  done : t.done = false
  fail : t.fail = false
  malf : t.malf = false
  blksz : t.blksz = 0x00000010
  err : t.err = 0x00000000
  inLen : t.inLen = 0x00000000
  outLen : t.outLen = 0x00000000
  ivLen : t.ivLen = 0x00000000
  blocks : t.blocks = 0x00000000
  out : ∀ j, j < s.params.outCap → t.outByte j = 0x00
  irq : t.irq = false
  params : t.params = s.params
  rng : t.rng = s.rng
  draws : t.draws = s.draws
  schedule : t.schedule = s.schedule

/-! ### Which error a command reports

Each chain names the first check that fails, in the order the command's own rule writes them. -/

/-- The error of a latched word by the bits of its value, none for a word that decodes
(30_encoding.md R97). -/
def firstWordError (n : Nat) : Option Err :=
  let op := n % 16
  let scheme := n / 16 % 8
  let mode := n / 256 % 8
  if 6 ≤ op then some .illegalOp
  else if op = 0 ∨ op = 5 then some .noncanonImm
  else if n / 128 % 2 ≠ 0 ∨ n / 2048 ≠ 0 then some .rsvdBits
  else if scheme = 7 then some .illegalScheme
  else if (op = 1 ∨ op = 2) ∧ mode ≠ 0 then some .modeNotZero
  else if (op = 3 ∨ op = 4) ∧ (mode = 6 ∨ mode = 7) then some .illegalMode
  else if (op = 3 ∨ op = 4) ∧ mode = 5 ∧ scheme ≠ 0 then some .gcmScheme
  else none

/-- The error of a PAD command before its pad step (41_padding.md R122). -/
def padRefusal (sch : Scheme) (s : State) : Option Err :=
  if s.inLen.toNat > s.params.inCap then some .inLenRange
  else if s.blksz.toNat < 1 ∨ s.blksz.toNat > 256 then some .blkszRange
  else if sch = .pkcs5 ∧ s.blksz.toNat ≠ 8 then some .pkcs5Bs
  else none

/-- The error of an UNPAD command (41_padding.md R131). -/
def unpadRefusal (s : State) : Option Err :=
  if s.inLen.toNat > s.params.inCap then some .inLenRange else none

/-- The error of an ENC command before its pad step (42_block_modes.md R160). -/
def encRefusal (m : ChainMode) (sch : Scheme) (s : State) : Option Err :=
  if s.params.cipher.status ≠ .ok then some .cipherFailed
  else if s.inLen.toNat > s.params.inCap then some .inLenRange
  else if s.params.cipher.bs < 1 ∨ s.params.cipher.bs > 256 then some .blkszRange
  else if sch = .pkcs5 ∧ s.params.cipher.bs ≠ 8 then some .pkcs5Bs
  else if m ≠ .ecb ∧ s.ivLen.toNat ≠ s.params.cipher.bs then some .ivLen
  else if (m = .ecb ∨ m = .cbc) ∧ sch = .none ∧ s.inLen.toNat % s.params.cipher.bs ≠ 0 then
    some .notBlockMultiple
  else none

/-- The error of a DEC command (42_block_modes.md R161). -/
def decRefusal (m : ChainMode) (sch : Scheme) (s : State) : Option Err :=
  if s.params.cipher.status ≠ .ok then some .cipherFailed
  else if s.inLen.toNat > s.params.inCap then some .inLenRange
  else if s.params.cipher.bs < 1 ∨ s.params.cipher.bs > 256 then some .blkszRange
  else if sch = .pkcs5 ∧ s.params.cipher.bs ≠ 8 then some .pkcs5Bs
  else if m ≠ .ecb ∧ s.ivLen.toNat ≠ s.params.cipher.bs then some .ivLen
  else if (m = .ecb ∨ m = .cbc) ∧ s.inLen.toNat % s.params.cipher.bs ≠ 0 then
    some .notBlockMultiple
  else none

/-- The error of the five checks of both GCM commands (43_gcm.md R206). -/
def gcmRefusal (s : State) : Option Err :=
  if s.params.cipher.status ≠ .ok then some .cipherFailed
  else if s.inLen.toNat > s.params.inCap then some .inLenRange
  else if s.params.cipher.bs < 1 ∨ s.params.cipher.bs > 256 then some .blkszRange
  else if s.params.cipher.bs ≠ 16 then some .gcmBs
  else if s.ivLen.toNat ≠ 12 then some .nonceLen
  else none

/-! ### What a command leaves -/

/-- What a PAD command other than PAD.ISO10126 leaves, `Y` being its result (41_padding.md R122). -/
def PadResult (sch : Scheme) (s t : State) (Y : Bytes) : Prop :=
  OracleUnused s t ∧
    match padRefusal sch s with
    | some e => Failed s t e
    | none => Completed s t Y 0 false

/-- What an UNPAD command leaves, `Y` being its result and `mal` its malformed flag
(41_padding.md R131). -/
def UnpadResult (s t : State) (Y : Bytes) (mal : Bool) : Prop :=
  OracleUnused s t ∧
    match unpadRefusal s with
    | some e => Failed s t e
    | none => Completed s t Y 0 mal

/-- What an ENC command leaves (42_block_modes.md R160). `chain P C` is the mode's equation between
the padded plaintext and the list of its ceil(|P| / bs) output segments. -/
def EncResult (m : ChainMode) (sch : Scheme) (s t : State) (chain : Bytes → List Bytes → Prop) :
    Prop :=
  match encRefusal m sch s with
  | some e => Failed s t e ∧ OracleUnused s t
  | none =>
    let bs := s.params.cipher.bs
    let fill := fillBytes sch s.inLen.toNat bs s
    t.rng = fill.2.rng ∧ t.draws = fill.2.draws ∧
      match fill.1 with
      | none => Failed s t .rngFail
      | some R =>
        let P := padFn sch (dataOperand s) bs R
        ∃ C : List Bytes, C.length = (P.length + bs - 1) / bs ∧ chain P C ∧
          Completed s t C.flatten C.length false

/-- What a DEC command leaves (42_block_modes.md R161). `chain X` is the mode's equation between the
data operand and the list of its ceil(L / bs) output segments, which the unpad step then takes. -/
def DecResult (m : ChainMode) (sch : Scheme) (s t : State) (chain : List Bytes → Prop) : Prop :=
  OracleUnused s t ∧
    match decRefusal m sch s with
    | some e => Failed s t e
    | none =>
      let bs := s.params.cipher.bs
      ∃ X : List Bytes, X.length = (s.inLen.toNat + bs - 1) / bs ∧ chain X ∧
        Completed s t (unpadFn sch X.flatten).1 X.length (unpadFn sch X.flatten).2

/-- Segment i of `X` against a keystream block: X_i xor prefix(K_i, |X_i|) (42_block_modes.md R162). -/
def maskedBlock (bs : Nat) (X : Bytes) (i : Nat) (K : Bytes) : Bytes :=
  xorBytes (blockAt bs X i) (K.take (blockAt bs X i).length)

/-- The cases in which unpad recovers the padded data (41_padding.md R141). -/
def Recoverable (sch : Scheme) (D : Bytes) (bs : Nat) : Prop :=
  match sch with
  | .none | .iso9797 => True
  | .x923 | .iso10126 | .pkcs7 => bs ≤ 255 ∨ D.length % bs ≠ 0
  | .pkcs5 => bs = 8
  | .zero => D = [] ∨ D.getLast? ≠ some 0x00

/-! ### Invariant and runs -/

/-- The invariant of the machine: it holds after reset and every step keeps it. -/
structure Inv (s : State) : Prop where
  /-- Memory is in canonical form. -/
  canonical : s.mem.wf = true
  /-- Memory lists only bytes of IVB, INB and OUTB (20_memory.md R61). -/
  placed : ∀ c ∈ s.mem, (ivbBase ≤ c.1 ∧ c.1 < ivbEnd) ∨
    (inbBase ≤ c.1 ∧ c.1 < inbEnd s.params) ∨ (outbBase ≤ c.1 ∧ c.1 < outbEnd s.params)
  /-- DONE and FAIL are never both 1 (10_state.md R25). -/
  oneCompletion : ¬(s.done = true ∧ s.fail = true)
  /-- MALF is set only with DONE, and no error completion leaves it (10_state.md R25). -/
  malfOnSuccess : s.malf = true → s.fail = false
  /-- While BUSY, CMD_LAST is the latched word, it is not immediate, and the completion flags are 0
  (10_state.md R34). -/
  latched : ∀ w, s.eng = .busy w →
    s.cmdLast = w ∧ decodeImmediate w = none ∧ s.done = false ∧ s.fail = false ∧ s.malf = false
  /-- ERR holds 0 or a value of the table of 60_exceptions.md R251. -/
  errLegal : s.err = 0x00000000 ∨ ∃ e, s.err = errWord e
  /-- The result fits in OUTB (00_scope.md R10). -/
  outFits : s.outLen.toNat ≤ s.params.outCap
  /-- OUTB is zero beyond OUT_LEN (70_reset_and_hazards.md R301). -/
  outTail : ∀ j, s.outLen.toNat ≤ j → j < s.params.outCap → s.outByte j = 0x00

/-- An event the spec gives a meaning: a bus access is inside the window, 32 bits wide and aligned
(20_memory.md R60, R66). -/
def Event.legal (p : Params) : Event → Prop
  | .read addr width =>
    p.base ≤ addr ∧ addr < p.base + 0x10000 ∧ width = 32 ∧ (addr - p.base) % 4 = 0
  | .write addr width _ =>
    p.base ≤ addr ∧ addr < p.base + 0x10000 ∧ width = 32 ∧ (addr - p.base) % 4 = 0
  | .engine => True
  | .powerOn => True

/-- `s` with a read of the word at window offset `off` before its events to come. -/
def State.nextRead (s : State) (off : Nat) : State :=
  { s with schedule := .read (s.params.base + off) 32 :: s.schedule }

/-- `s` with a write of `v` to window offset `off` before its events to come. -/
def State.nextWrite (s : State) (off : Nat) (v : Word) : State :=
  { s with schedule := .write (s.params.base + off) 32 v :: s.schedule }

/-- A legal event that neither issues a command other than NOP nor resets: the events before which
20_memory.md R73 keeps a result readable. -/
def Event.quiet (p : Params) (e : Event) : Prop :=
  e.legal p ∧
    match e with
    | .write addr _ v =>
      (addr = p.base + 0x00C → v = 0x00000000) ∧ (addr = p.base + 0x008 → v.getLsbD 0 = false)
    | .powerOn => False
    | .read _ _ | .engine => True

/-- A state whose events to come are all legal. -/
def SafeSchedule (s : State) : Prop := ∀ e ∈ s.schedule, e.legal s.params

/-- The end of a host program's run (20_memory.md R80). -/
def Final (s : State) : Prop := s.schedule = [] ∧ s.eng = .idle

end Sys2Proof.Machine
end

