-- ==== Sys2Proof/Certificates/Slice0/Obligations.lean ====
section
/-! DEFINITION. The statements about PADMODE-1, in the order of OBLIGATIONS.json. -/

open Sys2Proof Sys2Proof.Machine

/-! ### Encoding -/

/-- 30_encoding.md R103: the word is OP | SCHEME << 4 | MODE << 8, injective on the legal rows, and
decoding inverts it. -/
def Obligations.EncodeThenDecode : Prop :=
  (∀ i : Instr, (encode i).toNat =
    i.fields.op.toNat + 16 * i.fields.scheme.toNat + 256 * i.fields.mode.toNat) ∧
  (∀ i j : Instr, encode i = encode j → i = j) ∧
  (∀ i : Instr, decode (encode i) = .ok i)

/-- The other direction: a word that decodes is the word of its command, so no two words have one
meaning and no bit of a word is dropped. -/
def Obligations.DecodeThenEncode : Prop :=
  ∀ (w : Word) (i : Instr), decode w = .ok i → encode i = w

/-- 30_encoding.md R98, the decoder written from the table alone: it reads a word exactly when the
engine's decoder does, a word it does not read is illegal with the code of R97, and the 28 rows cover
88 words. -/
def Obligations.TableDecoderAgrees : Prop :=
  opcodeRows.length = 28 ∧
  (∀ (w : Word) (i : Instr), decodeByTable w = some i ↔ decode w = .ok i) ∧
  (∀ w : Word, decodeByTable w = none ↔
    ∃ e, firstWordError w.toNat = some e ∧ decode w = .error e) ∧
  ∃ words : List Word, words.Nodup ∧ words.length = 88 ∧
    ∀ w, w ∈ words ↔ ∃ i, decode w = .ok i

/-- The rows of 30_encoding.md R98, each with its word written out. -/
def Obligations.OpcodeMapDecodes : Prop :=
  decode 0x00000000 = .ok .nop ∧ decode 0x00000005 = .ok .clrstat ∧
  decode 0x00000001 = .ok .padNone ∧ decode 0x00000011 = .ok .padZero ∧
  decode 0x00000021 = .ok .padX923 ∧ decode 0x00000031 = .ok .padIso9797 ∧
  decode 0x00000041 = .ok .padIso10126 ∧ decode 0x00000051 = .ok .padPkcs5 ∧
  decode 0x00000061 = .ok .padPkcs7 ∧ decode 0x00000002 = .ok .unpadNone ∧
  decode 0x00000012 = .ok .unpadZero ∧ decode 0x00000022 = .ok .unpadX923 ∧
  decode 0x00000032 = .ok .unpadIso9797 ∧ decode 0x00000042 = .ok .unpadIso10126 ∧
  decode 0x00000052 = .ok .unpadPkcs5 ∧ decode 0x00000062 = .ok .unpadPkcs7 ∧
  decode 0x00000503 = .ok .encGcm ∧ decode 0x00000504 = .ok .decGcm ∧
  ∀ p ∈ [(Scheme.none, (0x00 : Word)), (.zero, 0x10), (.x923, 0x20), (.iso9797, 0x30),
      (.iso10126, 0x40), (.pkcs5, 0x50), (.pkcs7, 0x60)],
    decode (0x00000003 + p.2) = .ok (.encEcb p.1) ∧ decode (0x00000103 + p.2) = .ok (.encCbc p.1) ∧
    decode (0x00000203 + p.2) = .ok (.encCfb p.1) ∧ decode (0x00000303 + p.2) = .ok (.encOfb p.1) ∧
    decode (0x00000403 + p.2) = .ok (.encCtr p.1) ∧ decode (0x00000004 + p.2) = .ok (.decEcb p.1) ∧
    decode (0x00000104 + p.2) = .ok (.decCbc p.1) ∧ decode (0x00000204 + p.2) = .ok (.decCfb p.1) ∧
    decode (0x00000304 + p.2) = .ok (.decOfb p.1) ∧ decode (0x00000404 + p.2) = .ok (.decCtr p.1)

/-- 30_encoding.md R97: the engine step of a latched word raises the first COMMAND error that holds
and nothing else; a word with none is exactly one command, and the step is that command's. R97 says that
the word is not 0x0 or 0x5 here: what the statement says of those two is the model's choice (log 12). -/
def Obligations.EngineDecodeOrder : Prop :=
  ∀ (s : State) (w : Word), s.eng = .busy w →
    match firstWordError w.toNat with
    | some e => ∃ t, engineTurn s = .next t ∧ Failed s t e ∧ OracleUnused s t
    | none => ∃ i, encode i = w ∧ (∀ j, encode j = w → j = i) ∧ engineTurn s = exec i s

/-- The ERR values of the table of 60_exceptions.md R251, one for each detail. -/
def Obligations.ErrorWordsOfTheTable : Prop :=
  errWord .blkszRange = 0x101 ∧ errWord .inLenRange = 0x201 ∧ errWord .ivLen = 0x301 ∧
  errWord .notBlockMultiple = 0x401 ∧ errWord .pkcs5Bs = 0x501 ∧ errWord .gcmBs = 0x601 ∧
  errWord .nonceLen = 0x701 ∧ errWord .rngFail = 0x102 ∧ errWord .tagMismatch = 0x103 ∧
  errWord .tooShort = 0x203 ∧ errWord .cipherFailed = 0x104 ∧ errWord .illegalOp = 0x105 ∧
  errWord .noncanonImm = 0x205 ∧ errWord .rsvdBits = 0x305 ∧ errWord .illegalScheme = 0x405 ∧
  errWord .modeNotZero = 0x505 ∧ errWord .illegalMode = 0x605 ∧ errWord .gcmScheme = 0x705

/-! ### The step and the commands -/

/-- A step runs the decoded command. A latched word runs when the engine has its turn, by an event or
because the events are used up; an immediate word runs at its write to CMD while IDLE. The turn of an
IDLE engine changes nothing (the model's choice, log 8 and 9). -/
def Obligations.StepRunsDecodedCommand : Prop :=
  ∀ (s : State) (w : Word) (i : Instr) (rest : List Event), decode w = .ok i →
    (i ≠ .nop → i ≠ .clrstat → s.eng = .busy w →
      (s.schedule = .engine :: rest → step s = exec i { s with schedule := rest }) ∧
      (s.schedule = [] → step s = exec i s)) ∧
    (i = .nop ∨ i = .clrstat → s.eng = .idle →
      step (s.nextWrite 0x00C w) = exec i { s with response := none }) ∧
    (s.eng = .idle →
      (s.schedule = .engine :: rest → step s = .next { s with schedule := rest }) ∧
      (s.schedule = [] → step s = .next s))

/-- 70_reset_and_hazards.md R298 and 10_state.md R40: every command answers a next state in which the
operand registers, CTRL, the parameters and every byte of IVB and INB are as before. -/
def Obligations.CommandsKeepOperands : Prop :=
  ∀ (i : Instr) (s : State), ∃ t, exec i s = .next t ∧
    t.blksz = s.blksz ∧ t.inLen = s.inLen ∧ t.ivLen = s.ivLen ∧
    t.ieDone = s.ieDone ∧ t.ieFail = s.ieFail ∧ t.params = s.params ∧
    (∀ j, j < 256 → t.ivByte j = s.ivByte j) ∧
    (∀ j, j < s.params.inCap → t.inByte j = s.inByte j) ∧
    (∀ a, a < outbBase → t.byteAt a = s.byteAt a) ∧
    t.schedule = s.schedule ∧ t.response = s.response ∧ t.powerOns = s.powerOns

/-- 44_control.md R230: NOP written to CMD writes CMD_LAST and nothing else; written while BUSY it is
dropped and sets WERR; a word with OP = 0 and another bit set is accepted and fails to decode. -/
def Obligations.NopWritesCmdLast : Prop :=
  (∀ s : State, exec .nop s = .next { s with cmdLast := 0x00000000 }) ∧
  (∀ s : State, s.eng = .idle → step (s.nextWrite 0x00C 0x00000000) =
    .next { s with response := none, cmdLast := 0x00000000 }) ∧
  (∀ (s : State) (w : Word), s.eng = .busy w → step (s.nextWrite 0x00C 0x00000000) =
    .next { s with response := none, werr := true }) ∧
  (∀ (s : State) (w : Word), s.eng = .idle → w.toNat % 16 = 0 → w ≠ 0x00000000 →
    step (s.nextWrite 0x00C w) = .next (accept w { s with response := none }) ∧
      decode w = .error .noncanonImm)

/-- 44_control.md R231: CLRSTAT written to CMD writes CMD_LAST, clears the sticky flags and ERR, so the
interrupt output is low, and changes nothing else. -/
def Obligations.ClrstatClearsStatus : Prop :=
  (∀ s : State, exec .clrstat s = .next { s with
    cmdLast := 0x00000005, done := false, fail := false, malf := false, werr := false,
    err := 0x00000000 }) ∧
  (∀ s : State, s.eng = .idle → ∃ t, step (s.nextWrite 0x00C 0x00000005) = .next t ∧
    t = { s with
      response := none, cmdLast := 0x00000005, done := false, fail := false, malf := false,
      werr := false, err := 0x00000000 } ∧ t.statusWord = 0x00000000 ∧ t.irq = false) ∧
  (∀ (s : State) (w : Word), s.eng = .busy w → step (s.nextWrite 0x00C 0x00000005) =
    .next { s with response := none, werr := true }) ∧
  (∀ (s : State) (w : Word), s.eng = .idle → w.toNat % 16 = 5 → w ≠ 0x00000005 →
    step (s.nextWrite 0x00C w) = .next (accept w { s with response := none }) ∧
      decode w = .error .noncanonImm)

/-! ### PAD -/

/-- 41_padding.md R123. -/
def Obligations.PadNoneIsIdentity : Prop :=
  decode 0x00000001 = .ok .padNone ∧
  ∀ s : State, ∃ t, exec .padNone s = .next t ∧ PadResult .none s t (dataOperand s)

/-- 41_padding.md R124. -/
def Obligations.PadZeroAppendsZeros : Prop :=
  decode 0x00000011 = .ok .padZero ∧
  ∀ s : State, ∃ t, exec .padZero s = .next t ∧
    let n := s.blksz.toNat - s.inLen.toNat % s.blksz.toNat
    PadResult .zero s t (dataOperand s ++ List.replicate n 0x00)

/-- 41_padding.md R125, with the count byte of R121. -/
def Obligations.PadX923AppendsZerosAndCount : Prop :=
  decode 0x00000021 = .ok .padX923 ∧
  ∀ s : State, ∃ t, exec .padX923 s = .next t ∧
    let n := s.blksz.toNat - s.inLen.toNat % s.blksz.toNat
    PadResult .x923 s t
      (dataOperand s ++ List.replicate (n - 1) 0x00 ++ [BitVec.ofNat 8 (n % 256)])

/-- 41_padding.md R126: the 0x80 marker, then m zero bytes with 1 <= m <= bs; the result is no longer
than IN_CAP + 257. -/
def Obligations.PadIso9797AppendsMarkerAndZeros : Prop :=
  decode 0x00000031 = .ok .padIso9797 ∧
  ∀ s : State, ∃ t, exec .padIso9797 s = .next t ∧
    let m := s.blksz.toNat - (s.inLen.toNat + 1) % s.blksz.toNat
    PadResult .iso9797 s t (dataOperand s ++ [0x80] ++ List.replicate m 0x00) ∧
    (padRefusal .iso9797 s = none → 1 ≤ m ∧ m ≤ s.blksz.toNat ∧
      t.outLen.toNat = s.inLen.toNat + 1 + m ∧ t.outLen.toNat ≤ s.params.inCap + 257)

/-- 41_padding.md R127: the random source is asked for n - 1 bytes, once, and only when n > 1; its
failure fails the command; any bytes it returns stand before the count byte. -/
def Obligations.PadIso10126AppendsRandomAndCount : Prop :=
  decode 0x00000041 = .ok .padIso10126 ∧
  (∀ s : State, ∃ t, exec .padIso10126 s = .next t ∧
    match padRefusal .iso10126 s with
    | some e => Failed s t e ∧ OracleUnused s t
    | none =>
      let n := s.blksz.toNat - s.inLen.toNat % s.blksz.toNat
      if n = 1 then Completed s t (dataOperand s ++ [0x01]) 0 false ∧ OracleUnused s t
      else
        OracleAskedOnce s t ∧
        match (randomBytes (n - 1) s).1 with
        | none => Failed s t .rngFail
        | some R => R.length = n - 1 ∧
          Completed s t (dataOperand s ++ R ++ [BitVec.ofNat 8 (n % 256)]) 0 false) ∧
  (∀ (s : State) (k : Nat) (rest : List RngAnswer), s.rng = .fail :: rest →
    (randomBytes k s).1 = none) ∧
  (∀ (s : State) (R : Bytes) (rest : List RngAnswer), s.rng = .bytes R :: rest →
    (randomBytes R.length s).1 = some R)

/-- 41_padding.md R128: PKCS #7 with block size 8, and an error for any other block size. -/
def Obligations.PadPkcs5AppendsCounts : Prop :=
  decode 0x00000051 = .ok .padPkcs5 ∧
  ∀ s : State, ∃ t, exec .padPkcs5 s = .next t ∧
    let n := 8 - s.inLen.toNat % 8
    PadResult .pkcs5 s t (dataOperand s ++ List.replicate n (BitVec.ofNat 8 n))

/-- 41_padding.md R129, with the count byte of R121. -/
def Obligations.PadPkcs7AppendsCounts : Prop :=
  decode 0x00000061 = .ok .padPkcs7 ∧
  ∀ s : State, ∃ t, exec .padPkcs7 s = .next t ∧
    let n := s.blksz.toNat - s.inLen.toNat % s.blksz.toNat
    PadResult .pkcs7 s t (dataOperand s ++ List.replicate n (BitVec.ofNat 8 (n % 256)))

/-! ### UNPAD -/

/-- 41_padding.md R132. -/
def Obligations.UnpadNoneIsIdentity : Prop :=
  decode 0x00000002 = .ok .unpadNone ∧
  ∀ s : State, ∃ t, exec .unpadNone s = .next t ∧ UnpadResult s t (dataOperand s) false

/-- 41_padding.md R133: k is 0 or one more than the place of the last byte that is not 0x00. -/
def Obligations.UnpadZeroStripsZeros : Prop :=
  decode 0x00000012 = .ok .unpadZero ∧
  ∀ s : State, ∃ t, exec .unpadZero s = .next t ∧
    ∃ k, k ≤ s.inLen.toNat ∧ (∀ i, k ≤ i → i < s.inLen.toNat → s.inByte i = 0x00) ∧
      (k = 0 ∨ s.inByte (k - 1) ≠ 0x00) ∧ UnpadResult s t ((dataOperand s).take k) false

/-- 41_padding.md R134, R135, R138, R139, R140: the four count schemes read the last byte alone, with
its three malformed cases. -/
def Obligations.UnpadCountTruncates : Prop :=
  ∀ p ∈ [((0x00000022 : Word), Instr.unpadX923), (0x00000042, .unpadIso10126),
      (0x00000052, .unpadPkcs5), (0x00000062, .unpadPkcs7)],
    decode p.1 = .ok p.2 ∧
    ∀ s : State, ∃ t, exec p.2 s = .next t ∧
      let L := s.inLen.toNat
      let n := (s.inByte (L - 1)).toNat
      if L = 0 then UnpadResult s t [] true
      else if n = 0 then UnpadResult s t (dataOperand s) true
      else if n > L then UnpadResult s t [] true
      else UnpadResult s t ((dataOperand s).take (L - n)) false

/-- 41_padding.md R136: the zeros are stripped and the byte before them is dropped; it is malformed
when there is none or it is not 0x80. -/
def Obligations.UnpadIso9797DropsMarker : Prop :=
  decode 0x00000032 = .ok .unpadIso9797 ∧
  ∀ s : State, ∃ t, exec .unpadIso9797 s = .next t ∧
    ∃ k, k ≤ s.inLen.toNat ∧ (∀ i, k ≤ i → i < s.inLen.toNat → s.inByte i = 0x00) ∧
      (k = 0 ∨ s.inByte (k - 1) ≠ 0x00) ∧
      if k = 0 then UnpadResult s t [] true
      else UnpadResult s t ((dataOperand s).take (k - 1)) (decide (s.inByte (k - 1) ≠ 0x80))

/-! ### ENC -/

/-- 42_block_modes.md R163: C_i = E(P_i). -/
def Obligations.EncEcbChain : Prop :=
  ∀ sch : Scheme, decode (0x00000003 + (sch.field.setWidth 32 <<< 4)) = .ok (.encEcb sch) ∧
    ∀ s : State, ∃ t, exec (.encEcb sch) s = .next t ∧
      let c := s.params.cipher
      EncResult .ecb sch s t fun P C =>
        ∀ i, i < C.length → C.getD i [] = cipherE c (blockAt c.bs P i)

/-- 42_block_modes.md R165: C_i = E(P_i xor C_{i-1}), C_{-1} = IV. -/
def Obligations.EncCbcChain : Prop :=
  ∀ sch : Scheme, decode (0x00000103 + (sch.field.setWidth 32 <<< 4)) = .ok (.encCbc sch) ∧
    ∀ s : State, ∃ t, exec (.encCbc sch) s = .next t ∧
      let c := s.params.cipher
      EncResult .cbc sch s t fun P C =>
        ∀ i, i < C.length →
          C.getD i [] = cipherE c (xorBytes (blockAt c.bs P i) (before (ivOperand c.bs s) C i))

/-- 42_block_modes.md R167: C_i = P_i xor prefix(E(C_{i-1}), |P_i|), C_{-1} = IV. -/
def Obligations.EncCfbChain : Prop :=
  ∀ sch : Scheme, decode (0x00000203 + (sch.field.setWidth 32 <<< 4)) = .ok (.encCfb sch) ∧
    ∀ s : State, ∃ t, exec (.encCfb sch) s = .next t ∧
      let c := s.params.cipher
      EncResult .cfb sch s t fun P C =>
        ∀ i, i < C.length →
          C.getD i [] = maskedBlock c.bs P i (cipherE c (before (ivOperand c.bs s) C i))

/-- 42_block_modes.md R170 with the keystream of R169. -/
def Obligations.EncOfbChain : Prop :=
  ∀ sch : Scheme, decode (0x00000303 + (sch.field.setWidth 32 <<< 4)) = .ok (.encOfb sch) ∧
    ∀ s : State, ∃ t, exec (.encOfb sch) s = .next t ∧
      let c := s.params.cipher
      EncResult .ofb sch s t fun P C =>
        ∃ K : Nat → Bytes, K 0 = cipherE c (ivOperand c.bs s) ∧
          (∀ i, K (i + 1) = cipherE c (K i)) ∧
          ∀ i, i < C.length → C.getD i [] = maskedBlock c.bs P i (K i)

/-- 42_block_modes.md R173 with the counter blocks of R172. -/
def Obligations.EncCtrChain : Prop :=
  ∀ sch : Scheme, decode (0x00000403 + (sch.field.setWidth 32 <<< 4)) = .ok (.encCtr sch) ∧
    ∀ s : State, ∃ t, exec (.encCtr sch) s = .next t ∧
      let c := s.params.cipher
      EncResult .ctr sch s t fun P C =>
        ∀ i, i < C.length → ∃ ctr : Bytes, ctr.length = c.bs ∧
          bigEndian ctr = (bigEndian (ivOperand c.bs s) + i) % 256 ^ c.bs ∧
          C.getD i [] = maskedBlock c.bs P i (cipherE c ctr)

/-! ### DEC -/

/-- 42_block_modes.md R164: P_i = D(C_i). -/
def Obligations.DecEcbChain : Prop :=
  ∀ sch : Scheme, decode (0x00000004 + (sch.field.setWidth 32 <<< 4)) = .ok (.decEcb sch) ∧
    ∀ s : State, ∃ t, exec (.decEcb sch) s = .next t ∧
      let c := s.params.cipher
      DecResult .ecb sch s t fun X =>
        ∀ i, i < X.length → X.getD i [] = cipherD c (blockAt c.bs (dataOperand s) i)

/-- 42_block_modes.md R166: P_i = D(C_i) xor C_{i-1}, C_{-1} = IV. -/
def Obligations.DecCbcChain : Prop :=
  ∀ sch : Scheme, decode (0x00000104 + (sch.field.setWidth 32 <<< 4)) = .ok (.decCbc sch) ∧
    ∀ s : State, ∃ t, exec (.decCbc sch) s = .next t ∧
      let c := s.params.cipher
      let C := dataOperand s
      DecResult .cbc sch s t fun X =>
        ∀ i, i < X.length → X.getD i [] = xorBytes (cipherD c (blockAt c.bs C i))
          (if i = 0 then ivOperand c.bs s else blockAt c.bs C (i - 1))

/-- 42_block_modes.md R168: P_i = C_i xor prefix(E(C_{i-1}), |C_i|), the keystream from the input. -/
def Obligations.DecCfbChain : Prop :=
  ∀ sch : Scheme, decode (0x00000204 + (sch.field.setWidth 32 <<< 4)) = .ok (.decCfb sch) ∧
    ∀ s : State, ∃ t, exec (.decCfb sch) s = .next t ∧
      let c := s.params.cipher
      let C := dataOperand s
      DecResult .cfb sch s t fun X =>
        ∀ i, i < X.length → X.getD i [] = maskedBlock c.bs C i
          (cipherE c (if i = 0 then ivOperand c.bs s else blockAt c.bs C (i - 1)))

/-- 42_block_modes.md R171: the keystream of R169 on the ciphertext. -/
def Obligations.DecOfbChain : Prop :=
  ∀ sch : Scheme, decode (0x00000304 + (sch.field.setWidth 32 <<< 4)) = .ok (.decOfb sch) ∧
    ∀ s : State, ∃ t, exec (.decOfb sch) s = .next t ∧
      let c := s.params.cipher
      DecResult .ofb sch s t fun X =>
        ∃ K : Nat → Bytes, K 0 = cipherE c (ivOperand c.bs s) ∧
          (∀ i, K (i + 1) = cipherE c (K i)) ∧
          ∀ i, i < X.length → X.getD i [] = maskedBlock c.bs (dataOperand s) i (K i)

/-- 42_block_modes.md R174: the keystream of R172 on the ciphertext. -/
def Obligations.DecCtrChain : Prop :=
  ∀ sch : Scheme, decode (0x00000404 + (sch.field.setWidth 32 <<< 4)) = .ok (.decCtr sch) ∧
    ∀ s : State, ∃ t, exec (.decCtr sch) s = .next t ∧
      let c := s.params.cipher
      DecResult .ctr sch s t fun X =>
        ∀ i, i < X.length → ∃ ctr : Bytes, ctr.length = c.bs ∧
          bigEndian ctr = (bigEndian (ivOperand c.bs s) + i) % 256 ^ c.bs ∧
          X.getD i [] = maskedBlock c.bs (dataOperand s) i (cipherE c ctr)

/-! ### GCM -/

/-- 43_gcm.md R206 with R204 and R205 written out: segment i of the ciphertext is masked with
E(N ++ (i + 2)), and the tag is E(N ++ 1) xor GHASH over the padded ciphertext and its length. -/
def Obligations.EncGcmSealsData : Prop :=
  decode 0x00000503 = .ok .encGcm ∧
  ∀ s : State, ∃ t, exec .encGcm s = .next t ∧ OracleUnused s t ∧
    match gcmRefusal s with
    | some e => Failed s t e
    | none =>
      let c := s.params.cipher
      let N := ivOperand 12 s
      ∃ segs : List Bytes, segs.length = (s.inLen.toNat + 15) / 16 ∧
        (∀ i, i < segs.length → segs.getD i [] = maskedBlock 16 (dataOperand s) i
          (cipherE c (N ++ bigEndianBytes 4 (i + 2)))) ∧
        let C := segs.flatten
        let H := cipherE c (List.replicate 16 0x00)
        let u := 16 * ((C.length + 15) / 16) - C.length
        let T := xorBytes (cipherE c (N ++ [0x00, 0x00, 0x00, 0x01]))
          (ghash H (C ++ List.replicate u 0x00 ++ List.replicate 8 0x00 ++
            bigEndianBytes 8 (8 * C.length)))
        C.length = s.inLen.toNat ∧ T.length = 16 ∧ Completed s t (C ++ T) segs.length false

/-- 43_gcm.md R207: too short, then a wrong tag, both with no plaintext (R208), else the plaintext. -/
def Obligations.DecGcmOpensData : Prop :=
  decode 0x00000504 = .ok .decGcm ∧
  ∀ s : State, ∃ t, exec .decGcm s = .next t ∧ OracleUnused s t ∧
    match gcmRefusal s with
    | some e => Failed s t e
    | none =>
      let c := s.params.cipher
      let N := ivOperand 12 s
      let L := s.inLen.toNat
      if L < 16 then Failed s t .tooShort
      else
        let C := (dataOperand s).take (L - 16)
        let H := cipherE c (List.replicate 16 0x00)
        let u := 16 * ((C.length + 15) / 16) - C.length
        let T := xorBytes (cipherE c (N ++ [0x00, 0x00, 0x00, 0x01]))
          (ghash H (C ++ List.replicate u 0x00 ++ List.replicate 8 0x00 ++
            bigEndianBytes 8 (8 * C.length)))
        if T ≠ (dataOperand s).drop (L - 16) then Failed s t .tagMismatch
        else ∃ segs : List Bytes, segs.length = (L - 16 + 15) / 16 ∧
          (∀ i, i < segs.length → segs.getD i [] = maskedBlock 16 C i
            (cipherE c (N ++ bigEndianBytes 4 (i + 2)))) ∧
          segs.flatten.length = L - 16 ∧ Completed s t segs.flatten segs.length false

/-- 43_gcm.md R202, the product by its loop, and R203, GHASH by its recurrence. -/
def Obligations.GfProductAndGhash : Prop :=
  (∀ X Y : Bytes, X.length = 16 → Y.length = 16 →
    ∃ Z V : Nat → Nat, Z 0 = 0 ∧ V 0 = bigEndian Y ∧
      (∀ i, i < 128 →
        Z (i + 1) = (if (bigEndian X >>> (127 - i)) % 2 = 1 then Z i ^^^ V i else Z i) ∧
        V (i + 1) = (if V i % 2 = 0 then V i >>> 1 else (V i >>> 1) ^^^ (0xE1 <<< 120))) ∧
      (gfMul X Y).length = 16 ∧ bigEndian (gfMul X Y) = Z 128) ∧
  (∀ (H S : Bytes) (q : Nat), H.length = 16 → S.length = 16 * q →
    ∃ Y : Nat → Bytes, Y 0 = List.replicate 16 0x00 ∧
      (∀ j, j < q → Y (j + 1) = gfMul (xorBytes (Y j) (blockAt 16 S j)) H) ∧ ghash H S = Y q)

/-! ### The bus -/

/-- 10_state.md R34: what accepting a word changes, and the drop of a word while BUSY. -/
def Obligations.CommandAcceptance : Prop :=
  ∀ (s : State) (w : Word), w ≠ 0x00000000 → w ≠ 0x00000005 →
    (s.eng = .idle → step (s.nextWrite 0x00C w) =
      .next { s with
        response := none, eng := .busy w, cmdLast := w, done := false, fail := false,
        malf := false }) ∧
    (∀ v, s.eng = .busy v → step (s.nextWrite 0x00C w) =
      .next { s with response := none, werr := true })

/-- 20_memory.md R71, every row of its table. A draw read is the free value of its draw (log 5). -/
def Obligations.BusyAccessRules : Prop :=
  ∀ (s : State) (w v : Word) (off : Nat), s.eng = .busy w → off % 4 = 0 → off < 0x10000 →
    let guarded := off = 0x00C ∨ off = 0x014 ∨ off = 0x020 ∨ off = 0x028 ∨
      (0x100 ≤ off ∧ off < 0x200) ∨ (0x1000 ≤ off ∧ off < 0x1000 + s.params.inCap)
    let drawn := off = 0x018 ∨ off = 0x024 ∨ off = 0x02C ∨ 0x8000 ≤ off
    (guarded → step (s.nextWrite off v) = .next { s with response := none, werr := true }) ∧
    (off = 0x008 → step (s.nextWrite off v) = .next (writeCtrl v { s with response := none })) ∧
    (off = 0x010 → step (s.nextWrite off v) = .next (writeStatus v { s with response := none })) ∧
    (¬guarded → off ≠ 0x008 → off ≠ 0x010 →
      step (s.nextWrite off v) = .next { s with response := none }) ∧
    (drawn → step (s.nextRead off) =
      .next { s with response := some (Config.busyRead s.draws), draws := s.draws + 1 }) ∧
    (¬drawn → step (s.nextRead off) = .next { s with response := some (readPlace off s) })

/-- 20_memory.md R66: an access inside the window that is not 32 bits wide or not aligned stops with
BusError. -/
def Obligations.BusErrorOnBadAccess : Prop :=
  ∀ (s : State) (addr width : Nat) (v : Word) (rest : List Event),
    s.params.base ≤ addr → addr < s.params.base + 0x10000 →
    width ≠ 32 ∨ (addr - s.params.base) % 4 ≠ 0 →
    step { s with schedule := .read addr width :: rest } = .fault .busError ∧
    step { s with schedule := .write addr width v :: rest } = .fault .busError

/-- 20_memory.md R65: the words of the three buffers are little-endian, read and written. -/
def Obligations.LittleEndianBuffers : Prop :=
  ∀ (s : State) (k : Nat), s.eng = .idle →
    (∀ p ∈ [(0x100, 256), (0x1000, s.params.inCap), (0x8000, s.params.outCap)], 4 * k < p.2 →
      ∃ w : Word, step (s.nextRead (p.1 + 4 * k)) = .next { s with response := some w } ∧
        w.toNat = (s.byteAt (p.1 + 4 * k)).toNat + 256 * (s.byteAt (p.1 + 4 * k + 1)).toNat +
          65536 * (s.byteAt (p.1 + 4 * k + 2)).toNat +
          16777216 * (s.byteAt (p.1 + 4 * k + 3)).toNat) ∧
    (∀ p ∈ [(0x100, 256), (0x1000, s.params.inCap)], 4 * k < p.2 → ∀ v : Word,
      ∃ t, step (s.nextWrite (p.1 + 4 * k) v) = .next t ∧
        t = { s with response := none, mem := t.mem } ∧
        (∀ j, j < 4 → t.byteAt (p.1 + 4 * k + j) = v.extractLsb' (8 * j) 8) ∧
        ∀ a, ¬(p.1 + 4 * k ≤ a ∧ a < p.1 + 4 * k + 4) → t.byteAt a = s.byteAt a)

/-- 10_state.md R39: reserved offsets and the windows beyond the buffers read zero (while BUSY the
output window's are draws, 20_memory.md R71) and writes to them do nothing. -/
def Obligations.ReservedReadsZeroIgnoresWrites : Prop :=
  ∀ (s : State) (off : Nat) (v : Word), off % 4 = 0 →
    (0x030 ≤ off ∧ off < 0x100) ∨ (0x200 ≤ off ∧ off < 0x1000) ∨
      (0x1000 + s.params.inCap ≤ off ∧ off < 0x8000) ∨
      (0x8000 + s.params.outCap ≤ off ∧ off < 0x10000) →
    (s.eng = .idle ∨ off < 0x8000 →
      step (s.nextRead off) = .next { s with response := some 0x00000000 }) ∧
    step (s.nextWrite off v) = .next { s with response := none }

/-- 20_memory.md R67: an aligned read returns what the map gives and has no side effect, but for the
draws of R71. -/
def Obligations.ReadsFollowTheMap : Prop :=
  (∀ (s : State) (off : Nat), off % 4 = 0 → off < 0x10000 →
    s.eng = .idle ∨ ¬(off = 0x018 ∨ off = 0x024 ∨ off = 0x02C ∨ 0x8000 ≤ off) →
    step (s.nextRead off) = .next { s with response := some (readPlace off s) }) ∧
  (∀ s : State,
    readPlace 0x000 s = 0x504D0001 ∧ readPlace 0x004 s = BitVec.ofNat 32 (s.params.inCap + 65536) ∧
    readPlace 0x008 s = s.ctrlWord ∧ readPlace 0x00C s = s.cmdLast ∧
    readPlace 0x010 s = s.statusWord ∧ readPlace 0x014 s = s.blksz ∧ readPlace 0x018 s = s.err ∧
    readPlace 0x01C s = cipherInfoWord s.params.cipher ∧ readPlace 0x020 s = s.inLen ∧
    readPlace 0x024 s = s.outLen ∧ readPlace 0x028 s = s.ivLen ∧ readPlace 0x02C s = s.blocks) ∧
  (∀ (s : State) (off : Nat), off % 4 = 0 →
    (0x100 ≤ off ∧ off < 0x200) ∨ (0x1000 ≤ off ∧ off < 0x1000 + s.params.inCap) ∨
      (0x8000 ≤ off ∧ off < 0x8000 + s.params.outCap) →
    readPlace off s = s.wordAt off) ∧
  (∀ (s : State) (off : Nat), off % 4 = 0 →
    (0x030 ≤ off ∧ off < 0x100) ∨ (0x200 ≤ off ∧ off < 0x1000) ∨
      (0x1000 + s.params.inCap ≤ off ∧ off < 0x8000) ∨ 0x8000 + s.params.outCap ≤ off →
    readPlace off s = 0x00000000)

/-- 10_state.md R23: a write with bit 0 clear stores the two enables, one with bit 0 set only resets;
CTRL reads the enables at bits 1 and 2 and zero elsewhere. -/
def Obligations.ControlRegister : Prop :=
  (∀ (s : State) (v : Word),
    (v.getLsbD 0 = false → step (s.nextWrite 0x008 v) =
      .next { s with response := none, ieDone := v.getLsbD 1, ieFail := v.getLsbD 2 }) ∧
    (v.getLsbD 0 = true → step (s.nextWrite 0x008 v) =
      .next (softReset { s with response := none }) ∧ (softReset s).ctrlWord = 0x00000000)) ∧
  (∀ s : State, ∃ w : Word, step (s.nextRead 0x008) = .next { s with response := some w } ∧
    w.toNat = 2 * s.ieDone.toNat + 4 * s.ieFail.toNat) ∧
  State.reset.ctrlWord = 0x00000000

/-- 10_state.md R25 and 60_exceptions.md R265: where each flag stands in STATUS, the level of the
interrupt output, and which flags a write of ones clears. -/
def Obligations.StatusRegister : Prop :=
  (∀ s : State, ∃ w : Word, step (s.nextRead 0x010) = .next { s with response := some w } ∧
    (w.getLsbD 0 = true ↔ ∃ c, s.eng = .busy c) ∧
    w.getLsbD 1 = s.done ∧ w.getLsbD 2 = s.fail ∧ w.getLsbD 3 = s.malf ∧ w.getLsbD 4 = s.werr ∧
    (w.getLsbD 5 = true ↔ (s.done = true ∧ s.ieDone = true) ∨ (s.fail = true ∧ s.ieFail = true)) ∧
    w.toNat < 64) ∧
  (∀ (s : State) (v : Word), ∃ t, step (s.nextWrite 0x010 v) = .next t ∧
    t = { s with
      response := none, done := t.done, fail := t.fail, malf := t.malf, werr := t.werr } ∧
    (v.getLsbD 1 = true → t.done = false) ∧ (v.getLsbD 1 = false → t.done = s.done) ∧
    (v.getLsbD 2 = true → t.fail = false) ∧ (v.getLsbD 2 = false → t.fail = s.fail) ∧
    (v.getLsbD 3 = true → t.malf = false) ∧ (v.getLsbD 3 = false → t.malf = s.malf) ∧
    (v.getLsbD 4 = true → t.werr = false) ∧ (v.getLsbD 4 = false → t.werr = s.werr))

/-- 10_state.md R42: BLKSZ, IN_LEN and IV_LEN store all 32 bits of any value, a read returns them
unchanged, and before any write they hold their reset values. -/
def Obligations.OperandRegistersExact : Prop :=
  (∀ (s : State) (v : Word), s.eng = .idle →
    step (s.nextWrite 0x014 v) = .next { s with response := none, blksz := v } ∧
    step (s.nextWrite 0x020 v) = .next { s with response := none, inLen := v } ∧
    step (s.nextWrite 0x028 v) = .next { s with response := none, ivLen := v }) ∧
  (∀ s : State,
    step (s.nextRead 0x014) = .next { s with response := some s.blksz } ∧
    step (s.nextRead 0x020) = .next { s with response := some s.inLen } ∧
    step (s.nextRead 0x028) = .next { s with response := some s.ivLen }) ∧
  State.reset.blksz.toNat = 16 ∧ State.reset.inLen.toNat = 0 ∧ State.reset.ivLen.toNat = 0

/-- 10_state.md R21, R22, R28: the three read-only registers that the platform fixes, in any engine
state, and writes to them do nothing. -/
def Obligations.ConstantRegisters : Prop :=
  ∀ (s : State) (v : Word),
    (∀ off ∈ [0x000, 0x004, 0x01C], step (s.nextWrite off v) = .next { s with response := none }) ∧
    step (s.nextRead 0x000) = .next { s with response := some 0x504D0001 } ∧
    (∃ caps : Word, step (s.nextRead 0x004) = .next { s with response := some caps } ∧
      caps.toNat = s.params.inCap + 65536) ∧
    ∃ info : Word, step (s.nextRead 0x01C) = .next { s with response := some info } ∧
      info.toNat = s.params.cipher.bs % 65536 +
        match s.params.cipher.status with
        | .ok => 0
        | .failed code => 65536 + 16777216 * code.toNat

/-! ### Reset, invariant, runs -/

/-- 70_reset_and_hazards.md R292: a CTRL write with bit 0 set, at any engine state, discards a latched
command and clears all but IVB and INB; no other access takes a BUSY engine out of its command. -/
def Obligations.SoftReset : Prop :=
  (∀ (s : State) (v : Word), v.getLsbD 0 = true → ∃ t, step (s.nextWrite 0x008 v) = .next t ∧
    AfterReset s t ∧ t.powerOns = s.powerOns ∧ t.response = none ∧
    ∀ a, ¬(outbBase ≤ a ∧ a < outbEnd s.params) → t.byteAt a = s.byteAt a) ∧
  ∀ (s : State) (w v : Word) (off : Nat), s.eng = .busy w → off % 4 = 0 → off < 0x10000 →
    (off ≠ 0x008 ∨ v.getLsbD 0 = false →
      ∃ t, step (s.nextWrite off v) = .next t ∧ t.eng = .busy w) ∧
    ∃ t, step (s.nextRead off) = .next t ∧ t.eng = .busy w

/-- 70_reset_and_hazards.md R290, both columns: the reset input at any state, the soft reset, and the
model's state after power-on, which has the same register values. The bytes of IVB and INB after
power-on are the free values of that power-on (log 6). -/
def Obligations.PowerOnReset : Prop :=
  (∀ s : State, ∃ t, step { s with schedule := .powerOn :: s.schedule } = .next t ∧
    AfterReset s t ∧ t.powerOns = s.powerOns + 1 ∧ t.response = s.response ∧
    (∀ j, j < 256 → t.ivByte j = Config.powerOnByte t.powerOns (0x100 + j)) ∧
    (∀ j, j < s.params.inCap → t.inByte j = Config.powerOnByte t.powerOns (0x1000 + j))) ∧
  (∀ s : State, AfterReset s (softReset s) ∧
    (∀ j, j < 256 → (softReset s).ivByte j = s.ivByte j) ∧
    (∀ j, j < s.params.inCap → (softReset s).inByte j = s.inByte j)) ∧
  AfterReset State.reset State.reset ∧
  (∀ j, j < 256 → State.reset.ivByte j = Config.powerOnByte 0 (0x100 + j)) ∧
  (∀ j, j < State.reset.params.inCap → State.reset.inByte j = Config.powerOnByte 0 (0x1000 + j))

/-- The invariant holds after power-on reset. -/
def Obligations.ResetSatisfiesInv : Prop := Inv State.reset

/-- Every step keeps the invariant, whatever event it takes. -/
def Obligations.StepKeepsInv : Prop :=
  ∀ s t : State, Inv s → step s = .next t → Inv t

/-- 20_memory.md R80 and 70_reset_and_hazards.md R302: a run whose accesses are all legal never stops,
and once they are used up the engine's turn ends it in a final state. The turn taken with no event left
is the model's form of weak fairness (log 8). -/
def Obligations.SafeScheduleRunsToFinal : Prop :=
  ∀ s : State, SafeSchedule s →
    ∃ t : State, Host.Core.run Sys2Proof.core (s.schedule.length + 1) s = .next t ∧ Final t

/-- 20_memory.md R66 and R80, as a step lemma: with only legal events to come a step never stops, and
only legal events are to come after it. That with none left the step is the engine's turn is the model's
choice (log 8). -/
def Obligations.StepKeepsSafeSchedule : Prop :=
  ∀ s : State, SafeSchedule s → ∃ t, step s = .next t ∧ SafeSchedule t

/-- 20_memory.md R73: from an IDLE state, accesses that issue no command but NOP and reset nothing
leave the engine IDLE and the last result readable, however many they are. -/
def Obligations.ResultsStayReadable : Prop :=
  ∀ s : State, s.eng = .idle → (∀ e ∈ s.schedule, e.quiet s.params) →
    ∃ t : State, Host.Core.run Sys2Proof.core s.schedule.length s = .next t ∧ t.eng = .idle ∧
      t.schedule = [] ∧ t.err = s.err ∧ t.outLen = s.outLen ∧ t.blocks = s.blocks ∧
      t.params = s.params ∧ ∀ j, j < s.params.outCap → t.outByte j = s.outByte j

/-! ### Laws of the algorithms -/

/-- 41_padding.md R130: with any scheme but NONE the padded length is a multiple of the block size,
greater than the data's. `R` stands for the random bytes of ISO 10126. -/
def Obligations.PadLengthLaw : Prop :=
  ∀ (sch : Scheme) (D R : Bytes) (bs : Nat), sch ≠ .none → 1 ≤ bs → bs ≤ 256 →
    (sch = .pkcs5 → bs = 8) → R.length = fillCount sch D.length bs →
    let P := padFn sch D bs R
    P.length % bs = 0 ∧ D.length < P.length ∧
    (sch ∈ [.zero, .x923, .iso10126, .pkcs7] → P.length = D.length + (bs - D.length % bs)) ∧
    (sch = .iso9797 → P.length = D.length + 1 + (bs - (D.length + 1) % bs)) ∧
    (sch = .pkcs5 → P.length = D.length + (8 - D.length % 8))

/-- 41_padding.md R141: unpad recovers padded data, not malformed, in every case the rule lists. -/
def Obligations.UnpadInvertsPad : Prop :=
  ∀ (sch : Scheme) (D R : Bytes) (bs : Nat), 1 ≤ bs → bs ≤ 256 →
    R.length = fillCount sch D.length bs → Recoverable sch D bs →
    unpadFn sch (padFn sch D bs R) = (D, false)

/-- 41_padding.md R142: data D that ends in k zero bytes loses exactly those. -/
def Obligations.ZeroPaddingLossy : Prop :=
  ∀ (D : Bytes) (k bs : Nat), 1 ≤ k → 1 ≤ bs → bs ≤ 256 → D.getLast? ≠ some 0x00 →
    unpadFn .zero (padFn .zero (D ++ List.replicate k 0x00) bs []) = (D, false)

/-- 41_padding.md R143: with the three count schemes the round trip fails exactly when the block size
is 256 and the length a multiple of it, and then unpad returns the padded data, malformed; PKCS5 never
fails it. -/
def Obligations.BlockSize256 : Prop :=
  (∀ (sch : Scheme) (D R : Bytes) (bs : Nat), sch ∈ [.x923, .iso10126, .pkcs7] → 1 ≤ bs →
    bs ≤ 256 → R.length = fillCount sch D.length bs →
    let P := padFn sch D bs R
    (bs = 256 ∧ D.length % 256 = 0 →
      P.getLast? = some 0x00 ∧ P.length = D.length + 256 ∧ unpadFn sch P = (P, true)) ∧
    (unpadFn sch P ≠ (D, false) ↔ bs = 256 ∧ D.length % 256 = 0)) ∧
  ∀ D : Bytes, unpadFn .pkcs5 (padFn .pkcs5 D 8 []) = (D, false)

/-- 42_block_modes.md R176: OFB and CTR are their own inverses as functions, and CFB decryption undoes
CFB encryption on data of any length. -/
def Obligations.StreamSymmetry : Prop :=
  ∀ (c : CipherPort) (iv X : Bytes), 1 ≤ c.bs → iv.length = c.bs →
    modeDec .ofb c iv X = modeEnc .ofb c iv X ∧
    modeDec .ctr c iv X = modeEnc .ctr c iv X ∧
    (∀ m ∈ [ChainMode.cfb, .ofb, .ctr], (modeDec m c iv (modeEnc m c iv X).1).1 = X)

/-- 42_block_modes.md R177: DEC.m on the output of ENC.m with the same cipher port, IV and scheme
returns the original data, for every mode and every scheme that R141 gives a round trip. -/
def Obligations.EncDecRoundTrip : Prop :=
  ∀ (m : ChainMode) (sch : Scheme) (s t u : State),
    encRefusal m sch s = none → Recoverable sch (dataOperand s) s.params.cipher.bs →
    exec (encInstr m sch) s = .next t → t.fail = false →
    u.params = s.params → u.ivLen = s.ivLen →
    ivOperand s.params.cipher.bs u = ivOperand s.params.cipher.bs s →
    u.inLen = t.outLen → u.inLen.toNat ≤ s.params.inCap →
    (∀ j, j < u.inLen.toNat → u.inByte j = t.outByte j) →
    ∃ v, exec (decInstr m sch) u = .next v ∧ v.done = true ∧ v.fail = false ∧ v.malf = false ∧
      v.err = 0x00000000 ∧ v.outLen = s.inLen ∧ ∀ j, j < s.inLen.toNat → v.outByte j = s.inByte j

/-- 43_gcm.md R211: DEC.GCM on the output of ENC.GCM with the same cipher port and nonce returns the
original data with DONE = 1. -/
def Obligations.GcmRoundTrip : Prop :=
  ∀ s t u : State, gcmRefusal s = none → exec .encGcm s = .next t →
    u.params = s.params → u.ivLen = s.ivLen → ivOperand 12 u = ivOperand 12 s →
    u.inLen = t.outLen → u.inLen.toNat ≤ s.params.inCap →
    (∀ j, j < u.inLen.toNat → u.inByte j = t.outByte j) →
    ∃ v, exec .decGcm u = .next v ∧ v.done = true ∧ v.fail = false ∧ v.malf = false ∧
      v.err = 0x00000000 ∧ v.outLen = s.inLen ∧ ∀ j, j < s.inLen.toNat → v.outByte j = s.inByte j

/-- 42_block_modes.md R175: an ENC command that completes outputs as many bytes as its padded data has:
the data's own length with SCHEME = NONE, else a greater, positive multiple of the block size. -/
def Obligations.EncOutputLength : Prop :=
  ∀ (m : ChainMode) (sch : Scheme) (s : State) (R : Bytes), encRefusal m sch s = none →
    (fillBytes sch s.inLen.toNat s.params.cipher.bs s).1 = some R →
    ∃ t, exec (encInstr m sch) s = .next t ∧ t.done = true ∧
      t.outLen.toNat = (padFn sch (dataOperand s) s.params.cipher.bs R).length ∧
      (sch = .none → t.outLen = s.inLen) ∧
      (sch ≠ .none → t.outLen.toNat % s.params.cipher.bs = 0 ∧ s.inLen.toNat < t.outLen.toNat)

/-- 00_scope.md R11 and log 1: the port's E and D keep blocks' length and invert each other, and every
block function with an inverse is some port's E. -/
def Obligations.CipherPortIsAnyPermutation : Prop :=
  (∀ (c : CipherPort) (x : Bytes), x.length = c.bs →
    (cipherE c x).length = c.bs ∧ (cipherD c x).length = c.bs ∧
    cipherD c (cipherE c x) = x ∧ cipherE c (cipherD c x) = x) ∧
  ∀ (bs : Nat) (status : CipherStatus) (E D : Bytes → Bytes),
    (∀ x, x.length = bs → (E x).length = bs ∧ D (E x) = x) →
    ∃ c : CipherPort, c.bs = bs ∧ c.status = status ∧
      ∀ x, x.length = bs → cipherE c x = E x ∧ cipherD c x = D x
end

