-- ==== Sys2Proof/Laws/State.lean ====
section
/-! SUPPORT. The field lemmas of the state updates of Ops.lean and Flags.lean: one lemma per field and
update, so that no proof unfolds a record update. -/

namespace Sys2Proof.Machine

/-! ### accept -/

@[simp] theorem accept_params (w : Word) (s : State) :
    (accept w s).params = s.params := rfl
@[simp] theorem accept_ieDone (w : Word) (s : State) :
    (accept w s).ieDone = s.ieDone := rfl
@[simp] theorem accept_ieFail (w : Word) (s : State) :
    (accept w s).ieFail = s.ieFail := rfl
@[simp] theorem accept_cmdLast (w : Word) (s : State) :
    (accept w s).cmdLast = w := rfl
@[simp] theorem accept_done (w : Word) (s : State) :
    (accept w s).done = false := rfl
@[simp] theorem accept_fail (w : Word) (s : State) :
    (accept w s).fail = false := rfl
@[simp] theorem accept_malf (w : Word) (s : State) :
    (accept w s).malf = false := rfl
@[simp] theorem accept_werr (w : Word) (s : State) :
    (accept w s).werr = s.werr := rfl
@[simp] theorem accept_blksz (w : Word) (s : State) :
    (accept w s).blksz = s.blksz := rfl
@[simp] theorem accept_err (w : Word) (s : State) :
    (accept w s).err = s.err := rfl
@[simp] theorem accept_inLen (w : Word) (s : State) :
    (accept w s).inLen = s.inLen := rfl
@[simp] theorem accept_outLen (w : Word) (s : State) :
    (accept w s).outLen = s.outLen := rfl
@[simp] theorem accept_ivLen (w : Word) (s : State) :
    (accept w s).ivLen = s.ivLen := rfl
@[simp] theorem accept_blocks (w : Word) (s : State) :
    (accept w s).blocks = s.blocks := rfl
@[simp] theorem accept_mem (w : Word) (s : State) :
    (accept w s).mem = s.mem := rfl
@[simp] theorem accept_eng (w : Word) (s : State) :
    (accept w s).eng = .busy w := rfl
@[simp] theorem accept_schedule (w : Word) (s : State) :
    (accept w s).schedule = s.schedule := rfl
@[simp] theorem accept_response (w : Word) (s : State) :
    (accept w s).response = s.response := rfl
@[simp] theorem accept_rng (w : Word) (s : State) :
    (accept w s).rng = s.rng := rfl
@[simp] theorem accept_draws (w : Word) (s : State) :
    (accept w s).draws = s.draws := rfl
@[simp] theorem accept_powerOns (w : Word) (s : State) :
    (accept w s).powerOns = s.powerOns := rfl

/-! ### commit -/

@[simp] theorem commit_params (Y : Bytes) (k : Nat) (mal : Bool) (s : State) :
    (commit Y k mal s).params = s.params := rfl
@[simp] theorem commit_ieDone (Y : Bytes) (k : Nat) (mal : Bool) (s : State) :
    (commit Y k mal s).ieDone = s.ieDone := rfl
@[simp] theorem commit_ieFail (Y : Bytes) (k : Nat) (mal : Bool) (s : State) :
    (commit Y k mal s).ieFail = s.ieFail := rfl
@[simp] theorem commit_cmdLast (Y : Bytes) (k : Nat) (mal : Bool) (s : State) :
    (commit Y k mal s).cmdLast = s.cmdLast := rfl
@[simp] theorem commit_done (Y : Bytes) (k : Nat) (mal : Bool) (s : State) :
    (commit Y k mal s).done = true := rfl
@[simp] theorem commit_fail (Y : Bytes) (k : Nat) (mal : Bool) (s : State) :
    (commit Y k mal s).fail = false := rfl
@[simp] theorem commit_malf (Y : Bytes) (k : Nat) (mal : Bool) (s : State) :
    (commit Y k mal s).malf = mal := rfl
@[simp] theorem commit_werr (Y : Bytes) (k : Nat) (mal : Bool) (s : State) :
    (commit Y k mal s).werr = s.werr := rfl
@[simp] theorem commit_blksz (Y : Bytes) (k : Nat) (mal : Bool) (s : State) :
    (commit Y k mal s).blksz = s.blksz := rfl
@[simp] theorem commit_err (Y : Bytes) (k : Nat) (mal : Bool) (s : State) :
    (commit Y k mal s).err = 0x00000000 := rfl
@[simp] theorem commit_inLen (Y : Bytes) (k : Nat) (mal : Bool) (s : State) :
    (commit Y k mal s).inLen = s.inLen := rfl
@[simp] theorem commit_outLen (Y : Bytes) (k : Nat) (mal : Bool) (s : State) :
    (commit Y k mal s).outLen = BitVec.ofNat 32 Y.length := rfl
@[simp] theorem commit_ivLen (Y : Bytes) (k : Nat) (mal : Bool) (s : State) :
    (commit Y k mal s).ivLen = s.ivLen := rfl
@[simp] theorem commit_blocks (Y : Bytes) (k : Nat) (mal : Bool) (s : State) :
    (commit Y k mal s).blocks = BitVec.ofNat 32 k := rfl
@[simp] theorem commit_mem (Y : Bytes) (k : Nat) (mal : Bool) (s : State) :
    (commit Y k mal s).mem = s.mem.setOutput s.params Y := rfl
@[simp] theorem commit_eng (Y : Bytes) (k : Nat) (mal : Bool) (s : State) :
    (commit Y k mal s).eng = .idle := rfl
@[simp] theorem commit_schedule (Y : Bytes) (k : Nat) (mal : Bool) (s : State) :
    (commit Y k mal s).schedule = s.schedule := rfl
@[simp] theorem commit_response (Y : Bytes) (k : Nat) (mal : Bool) (s : State) :
    (commit Y k mal s).response = s.response := rfl
@[simp] theorem commit_rng (Y : Bytes) (k : Nat) (mal : Bool) (s : State) :
    (commit Y k mal s).rng = s.rng := rfl
@[simp] theorem commit_draws (Y : Bytes) (k : Nat) (mal : Bool) (s : State) :
    (commit Y k mal s).draws = s.draws := rfl
@[simp] theorem commit_powerOns (Y : Bytes) (k : Nat) (mal : Bool) (s : State) :
    (commit Y k mal s).powerOns = s.powerOns := rfl

/-! ### raiseError -/

@[simp] theorem raiseError_params (e : Err) (s : State) :
    (raiseError e s).params = s.params := rfl
@[simp] theorem raiseError_ieDone (e : Err) (s : State) :
    (raiseError e s).ieDone = s.ieDone := rfl
@[simp] theorem raiseError_ieFail (e : Err) (s : State) :
    (raiseError e s).ieFail = s.ieFail := rfl
@[simp] theorem raiseError_cmdLast (e : Err) (s : State) :
    (raiseError e s).cmdLast = s.cmdLast := rfl
@[simp] theorem raiseError_done (e : Err) (s : State) :
    (raiseError e s).done = false := rfl
@[simp] theorem raiseError_fail (e : Err) (s : State) :
    (raiseError e s).fail = true := rfl
@[simp] theorem raiseError_malf (e : Err) (s : State) :
    (raiseError e s).malf = false := rfl
@[simp] theorem raiseError_werr (e : Err) (s : State) :
    (raiseError e s).werr = s.werr := rfl
@[simp] theorem raiseError_blksz (e : Err) (s : State) :
    (raiseError e s).blksz = s.blksz := rfl
@[simp] theorem raiseError_err (e : Err) (s : State) :
    (raiseError e s).err = errWord e := rfl
@[simp] theorem raiseError_inLen (e : Err) (s : State) :
    (raiseError e s).inLen = s.inLen := rfl
@[simp] theorem raiseError_outLen (e : Err) (s : State) :
    (raiseError e s).outLen = 0x00000000 := rfl
@[simp] theorem raiseError_ivLen (e : Err) (s : State) :
    (raiseError e s).ivLen = s.ivLen := rfl
@[simp] theorem raiseError_blocks (e : Err) (s : State) :
    (raiseError e s).blocks = 0x00000000 := rfl
@[simp] theorem raiseError_mem (e : Err) (s : State) :
    (raiseError e s).mem = s.mem.setOutput s.params [] := rfl
@[simp] theorem raiseError_eng (e : Err) (s : State) :
    (raiseError e s).eng = .idle := rfl
@[simp] theorem raiseError_schedule (e : Err) (s : State) :
    (raiseError e s).schedule = s.schedule := rfl
@[simp] theorem raiseError_response (e : Err) (s : State) :
    (raiseError e s).response = s.response := rfl
@[simp] theorem raiseError_rng (e : Err) (s : State) :
    (raiseError e s).rng = s.rng := rfl
@[simp] theorem raiseError_draws (e : Err) (s : State) :
    (raiseError e s).draws = s.draws := rfl
@[simp] theorem raiseError_powerOns (e : Err) (s : State) :
    (raiseError e s).powerOns = s.powerOns := rfl

/-! ### softReset -/

@[simp] theorem softReset_params (s : State) :
    (softReset s).params = s.params := rfl
@[simp] theorem softReset_ieDone (s : State) :
    (softReset s).ieDone = false := rfl
@[simp] theorem softReset_ieFail (s : State) :
    (softReset s).ieFail = false := rfl
@[simp] theorem softReset_cmdLast (s : State) :
    (softReset s).cmdLast = 0x00000000 := rfl
@[simp] theorem softReset_done (s : State) :
    (softReset s).done = false := rfl
@[simp] theorem softReset_fail (s : State) :
    (softReset s).fail = false := rfl
@[simp] theorem softReset_malf (s : State) :
    (softReset s).malf = false := rfl
@[simp] theorem softReset_werr (s : State) :
    (softReset s).werr = false := rfl
@[simp] theorem softReset_blksz (s : State) :
    (softReset s).blksz = 0x00000010 := rfl
@[simp] theorem softReset_err (s : State) :
    (softReset s).err = 0x00000000 := rfl
@[simp] theorem softReset_inLen (s : State) :
    (softReset s).inLen = 0x00000000 := rfl
@[simp] theorem softReset_outLen (s : State) :
    (softReset s).outLen = 0x00000000 := rfl
@[simp] theorem softReset_ivLen (s : State) :
    (softReset s).ivLen = 0x00000000 := rfl
@[simp] theorem softReset_blocks (s : State) :
    (softReset s).blocks = 0x00000000 := rfl
@[simp] theorem softReset_mem (s : State) :
    (softReset s).mem = s.mem.setOutput s.params [] := rfl
@[simp] theorem softReset_eng (s : State) :
    (softReset s).eng = .idle := rfl
@[simp] theorem softReset_schedule (s : State) :
    (softReset s).schedule = s.schedule := rfl
@[simp] theorem softReset_response (s : State) :
    (softReset s).response = s.response := rfl
@[simp] theorem softReset_rng (s : State) :
    (softReset s).rng = s.rng := rfl
@[simp] theorem softReset_draws (s : State) :
    (softReset s).draws = s.draws := rfl
@[simp] theorem softReset_powerOns (s : State) :
    (softReset s).powerOns = s.powerOns := rfl

/-! ### powerOnReset -/

@[simp] theorem powerOnReset_params (s : State) :
    (powerOnReset s).params = s.params := rfl
@[simp] theorem powerOnReset_ieDone (s : State) :
    (powerOnReset s).ieDone = false := rfl
@[simp] theorem powerOnReset_ieFail (s : State) :
    (powerOnReset s).ieFail = false := rfl
@[simp] theorem powerOnReset_cmdLast (s : State) :
    (powerOnReset s).cmdLast = 0x00000000 := rfl
@[simp] theorem powerOnReset_done (s : State) :
    (powerOnReset s).done = false := rfl
@[simp] theorem powerOnReset_fail (s : State) :
    (powerOnReset s).fail = false := rfl
@[simp] theorem powerOnReset_malf (s : State) :
    (powerOnReset s).malf = false := rfl
@[simp] theorem powerOnReset_werr (s : State) :
    (powerOnReset s).werr = false := rfl
@[simp] theorem powerOnReset_blksz (s : State) :
    (powerOnReset s).blksz = 0x00000010 := rfl
@[simp] theorem powerOnReset_err (s : State) :
    (powerOnReset s).err = 0x00000000 := rfl
@[simp] theorem powerOnReset_inLen (s : State) :
    (powerOnReset s).inLen = 0x00000000 := rfl
@[simp] theorem powerOnReset_outLen (s : State) :
    (powerOnReset s).outLen = 0x00000000 := rfl
@[simp] theorem powerOnReset_ivLen (s : State) :
    (powerOnReset s).ivLen = 0x00000000 := rfl
@[simp] theorem powerOnReset_blocks (s : State) :
    (powerOnReset s).blocks = 0x00000000 := rfl
@[simp] theorem powerOnReset_mem (s : State) :
    (powerOnReset s).mem = [] := rfl
@[simp] theorem powerOnReset_eng (s : State) :
    (powerOnReset s).eng = .idle := rfl
@[simp] theorem powerOnReset_schedule (s : State) :
    (powerOnReset s).schedule = s.schedule := rfl
@[simp] theorem powerOnReset_response (s : State) :
    (powerOnReset s).response = s.response := rfl
@[simp] theorem powerOnReset_rng (s : State) :
    (powerOnReset s).rng = s.rng := rfl
@[simp] theorem powerOnReset_draws (s : State) :
    (powerOnReset s).draws = s.draws := rfl
@[simp] theorem powerOnReset_powerOns (s : State) :
    (powerOnReset s).powerOns = s.powerOns + 1 := rfl

/-! ### randomBytes -/

@[simp] theorem randomBytes_params (k : Nat) (s : State) :
    ((randomBytes k s).2).params = s.params := rfl
@[simp] theorem randomBytes_ieDone (k : Nat) (s : State) :
    ((randomBytes k s).2).ieDone = s.ieDone := rfl
@[simp] theorem randomBytes_ieFail (k : Nat) (s : State) :
    ((randomBytes k s).2).ieFail = s.ieFail := rfl
@[simp] theorem randomBytes_cmdLast (k : Nat) (s : State) :
    ((randomBytes k s).2).cmdLast = s.cmdLast := rfl
@[simp] theorem randomBytes_done (k : Nat) (s : State) :
    ((randomBytes k s).2).done = s.done := rfl
@[simp] theorem randomBytes_fail (k : Nat) (s : State) :
    ((randomBytes k s).2).fail = s.fail := rfl
@[simp] theorem randomBytes_malf (k : Nat) (s : State) :
    ((randomBytes k s).2).malf = s.malf := rfl
@[simp] theorem randomBytes_werr (k : Nat) (s : State) :
    ((randomBytes k s).2).werr = s.werr := rfl
@[simp] theorem randomBytes_blksz (k : Nat) (s : State) :
    ((randomBytes k s).2).blksz = s.blksz := rfl
@[simp] theorem randomBytes_err (k : Nat) (s : State) :
    ((randomBytes k s).2).err = s.err := rfl
@[simp] theorem randomBytes_inLen (k : Nat) (s : State) :
    ((randomBytes k s).2).inLen = s.inLen := rfl
@[simp] theorem randomBytes_outLen (k : Nat) (s : State) :
    ((randomBytes k s).2).outLen = s.outLen := rfl
@[simp] theorem randomBytes_ivLen (k : Nat) (s : State) :
    ((randomBytes k s).2).ivLen = s.ivLen := rfl
@[simp] theorem randomBytes_blocks (k : Nat) (s : State) :
    ((randomBytes k s).2).blocks = s.blocks := rfl
@[simp] theorem randomBytes_mem (k : Nat) (s : State) :
    ((randomBytes k s).2).mem = s.mem := rfl
@[simp] theorem randomBytes_eng (k : Nat) (s : State) :
    ((randomBytes k s).2).eng = s.eng := rfl
@[simp] theorem randomBytes_schedule (k : Nat) (s : State) :
    ((randomBytes k s).2).schedule = s.schedule := rfl
@[simp] theorem randomBytes_response (k : Nat) (s : State) :
    ((randomBytes k s).2).response = s.response := rfl
@[simp] theorem randomBytes_rng (k : Nat) (s : State) :
    ((randomBytes k s).2).rng = s.rng.tail := rfl
@[simp] theorem randomBytes_draws (k : Nat) (s : State) :
    ((randomBytes k s).2).draws = s.draws + 1 := rfl
@[simp] theorem randomBytes_powerOns (k : Nat) (s : State) :
    ((randomBytes k s).2).powerOns = s.powerOns := rfl

/-! ### drawWord -/

@[simp] theorem drawWord_params (s : State) :
    ((drawWord s).2).params = s.params := rfl
@[simp] theorem drawWord_ieDone (s : State) :
    ((drawWord s).2).ieDone = s.ieDone := rfl
@[simp] theorem drawWord_ieFail (s : State) :
    ((drawWord s).2).ieFail = s.ieFail := rfl
@[simp] theorem drawWord_cmdLast (s : State) :
    ((drawWord s).2).cmdLast = s.cmdLast := rfl
@[simp] theorem drawWord_done (s : State) :
    ((drawWord s).2).done = s.done := rfl
@[simp] theorem drawWord_fail (s : State) :
    ((drawWord s).2).fail = s.fail := rfl
@[simp] theorem drawWord_malf (s : State) :
    ((drawWord s).2).malf = s.malf := rfl
@[simp] theorem drawWord_werr (s : State) :
    ((drawWord s).2).werr = s.werr := rfl
@[simp] theorem drawWord_blksz (s : State) :
    ((drawWord s).2).blksz = s.blksz := rfl
@[simp] theorem drawWord_err (s : State) :
    ((drawWord s).2).err = s.err := rfl
@[simp] theorem drawWord_inLen (s : State) :
    ((drawWord s).2).inLen = s.inLen := rfl
@[simp] theorem drawWord_outLen (s : State) :
    ((drawWord s).2).outLen = s.outLen := rfl
@[simp] theorem drawWord_ivLen (s : State) :
    ((drawWord s).2).ivLen = s.ivLen := rfl
@[simp] theorem drawWord_blocks (s : State) :
    ((drawWord s).2).blocks = s.blocks := rfl
@[simp] theorem drawWord_mem (s : State) :
    ((drawWord s).2).mem = s.mem := rfl
@[simp] theorem drawWord_eng (s : State) :
    ((drawWord s).2).eng = s.eng := rfl
@[simp] theorem drawWord_schedule (s : State) :
    ((drawWord s).2).schedule = s.schedule := rfl
@[simp] theorem drawWord_response (s : State) :
    ((drawWord s).2).response = s.response := rfl
@[simp] theorem drawWord_rng (s : State) :
    ((drawWord s).2).rng = s.rng := rfl
@[simp] theorem drawWord_draws (s : State) :
    ((drawWord s).2).draws = s.draws + 1 := rfl
@[simp] theorem drawWord_powerOns (s : State) :
    ((drawWord s).2).powerOns = s.powerOns := rfl

/-! ### writeStatus -/

@[simp] theorem writeStatus_params (v : Word) (s : State) :
    (writeStatus v s).params = s.params := rfl
@[simp] theorem writeStatus_ieDone (v : Word) (s : State) :
    (writeStatus v s).ieDone = s.ieDone := rfl
@[simp] theorem writeStatus_ieFail (v : Word) (s : State) :
    (writeStatus v s).ieFail = s.ieFail := rfl
@[simp] theorem writeStatus_cmdLast (v : Word) (s : State) :
    (writeStatus v s).cmdLast = s.cmdLast := rfl
@[simp] theorem writeStatus_done (v : Word) (s : State) :
    (writeStatus v s).done = (s.done && !v.getLsbD 1) := rfl
@[simp] theorem writeStatus_fail (v : Word) (s : State) :
    (writeStatus v s).fail = (s.fail && !v.getLsbD 2) := rfl
@[simp] theorem writeStatus_malf (v : Word) (s : State) :
    (writeStatus v s).malf = (s.malf && !v.getLsbD 3) := rfl
@[simp] theorem writeStatus_werr (v : Word) (s : State) :
    (writeStatus v s).werr = (s.werr && !v.getLsbD 4) := rfl
@[simp] theorem writeStatus_blksz (v : Word) (s : State) :
    (writeStatus v s).blksz = s.blksz := rfl
@[simp] theorem writeStatus_err (v : Word) (s : State) :
    (writeStatus v s).err = s.err := rfl
@[simp] theorem writeStatus_inLen (v : Word) (s : State) :
    (writeStatus v s).inLen = s.inLen := rfl
@[simp] theorem writeStatus_outLen (v : Word) (s : State) :
    (writeStatus v s).outLen = s.outLen := rfl
@[simp] theorem writeStatus_ivLen (v : Word) (s : State) :
    (writeStatus v s).ivLen = s.ivLen := rfl
@[simp] theorem writeStatus_blocks (v : Word) (s : State) :
    (writeStatus v s).blocks = s.blocks := rfl
@[simp] theorem writeStatus_mem (v : Word) (s : State) :
    (writeStatus v s).mem = s.mem := rfl
@[simp] theorem writeStatus_eng (v : Word) (s : State) :
    (writeStatus v s).eng = s.eng := rfl
@[simp] theorem writeStatus_schedule (v : Word) (s : State) :
    (writeStatus v s).schedule = s.schedule := rfl
@[simp] theorem writeStatus_response (v : Word) (s : State) :
    (writeStatus v s).response = s.response := rfl
@[simp] theorem writeStatus_rng (v : Word) (s : State) :
    (writeStatus v s).rng = s.rng := rfl
@[simp] theorem writeStatus_draws (v : Word) (s : State) :
    (writeStatus v s).draws = s.draws := rfl
@[simp] theorem writeStatus_powerOns (v : Word) (s : State) :
    (writeStatus v s).powerOns = s.powerOns := rfl

/-! ### dropWrite -/

@[simp] theorem dropWrite_params (s : State) :
    (dropWrite s).params = s.params := rfl
@[simp] theorem dropWrite_ieDone (s : State) :
    (dropWrite s).ieDone = s.ieDone := rfl
@[simp] theorem dropWrite_ieFail (s : State) :
    (dropWrite s).ieFail = s.ieFail := rfl
@[simp] theorem dropWrite_cmdLast (s : State) :
    (dropWrite s).cmdLast = s.cmdLast := rfl
@[simp] theorem dropWrite_done (s : State) :
    (dropWrite s).done = s.done := rfl
@[simp] theorem dropWrite_fail (s : State) :
    (dropWrite s).fail = s.fail := rfl
@[simp] theorem dropWrite_malf (s : State) :
    (dropWrite s).malf = s.malf := rfl
@[simp] theorem dropWrite_werr (s : State) :
    (dropWrite s).werr = true := rfl
@[simp] theorem dropWrite_blksz (s : State) :
    (dropWrite s).blksz = s.blksz := rfl
@[simp] theorem dropWrite_err (s : State) :
    (dropWrite s).err = s.err := rfl
@[simp] theorem dropWrite_inLen (s : State) :
    (dropWrite s).inLen = s.inLen := rfl
@[simp] theorem dropWrite_outLen (s : State) :
    (dropWrite s).outLen = s.outLen := rfl
@[simp] theorem dropWrite_ivLen (s : State) :
    (dropWrite s).ivLen = s.ivLen := rfl
@[simp] theorem dropWrite_blocks (s : State) :
    (dropWrite s).blocks = s.blocks := rfl
@[simp] theorem dropWrite_mem (s : State) :
    (dropWrite s).mem = s.mem := rfl
@[simp] theorem dropWrite_eng (s : State) :
    (dropWrite s).eng = s.eng := rfl
@[simp] theorem dropWrite_schedule (s : State) :
    (dropWrite s).schedule = s.schedule := rfl
@[simp] theorem dropWrite_response (s : State) :
    (dropWrite s).response = s.response := rfl
@[simp] theorem dropWrite_rng (s : State) :
    (dropWrite s).rng = s.rng := rfl
@[simp] theorem dropWrite_draws (s : State) :
    (dropWrite s).draws = s.draws := rfl
@[simp] theorem dropWrite_powerOns (s : State) :
    (dropWrite s).powerOns = s.powerOns := rfl

/-! ### clearStatus -/

@[simp] theorem clearStatus_params (s : State) :
    (clearStatus s).params = s.params := rfl
@[simp] theorem clearStatus_ieDone (s : State) :
    (clearStatus s).ieDone = s.ieDone := rfl
@[simp] theorem clearStatus_ieFail (s : State) :
    (clearStatus s).ieFail = s.ieFail := rfl
@[simp] theorem clearStatus_cmdLast (s : State) :
    (clearStatus s).cmdLast = s.cmdLast := rfl
@[simp] theorem clearStatus_done (s : State) :
    (clearStatus s).done = false := rfl
@[simp] theorem clearStatus_fail (s : State) :
    (clearStatus s).fail = false := rfl
@[simp] theorem clearStatus_malf (s : State) :
    (clearStatus s).malf = false := rfl
@[simp] theorem clearStatus_werr (s : State) :
    (clearStatus s).werr = false := rfl
@[simp] theorem clearStatus_blksz (s : State) :
    (clearStatus s).blksz = s.blksz := rfl
@[simp] theorem clearStatus_err (s : State) :
    (clearStatus s).err = 0x00000000 := rfl
@[simp] theorem clearStatus_inLen (s : State) :
    (clearStatus s).inLen = s.inLen := rfl
@[simp] theorem clearStatus_outLen (s : State) :
    (clearStatus s).outLen = s.outLen := rfl
@[simp] theorem clearStatus_ivLen (s : State) :
    (clearStatus s).ivLen = s.ivLen := rfl
@[simp] theorem clearStatus_blocks (s : State) :
    (clearStatus s).blocks = s.blocks := rfl
@[simp] theorem clearStatus_mem (s : State) :
    (clearStatus s).mem = s.mem := rfl
@[simp] theorem clearStatus_eng (s : State) :
    (clearStatus s).eng = s.eng := rfl
@[simp] theorem clearStatus_schedule (s : State) :
    (clearStatus s).schedule = s.schedule := rfl
@[simp] theorem clearStatus_response (s : State) :
    (clearStatus s).response = s.response := rfl
@[simp] theorem clearStatus_rng (s : State) :
    (clearStatus s).rng = s.rng := rfl
@[simp] theorem clearStatus_draws (s : State) :
    (clearStatus s).draws = s.draws := rfl
@[simp] theorem clearStatus_powerOns (s : State) :
    (clearStatus s).powerOns = s.powerOns := rfl

end Sys2Proof.Machine
end

