-- ==== Sys2Proof/Laws/Memory.lean ====
section
/-! SUPPORT. The laws of the byte memory: what a read gives after each operation, and that every
operation keeps the canonical form. The read laws hold of every list, canonical or not. -/

namespace Sys2Proof.Machine

/-! ### Reads after each operation -/

theorem read_nil (a : Nat) : Memory.read [] a = unlisted a := rfl

theorem read_cons (b : Nat) (v : Byte) (m : Memory) (a : Nat) :
    Memory.read ((b, v) :: m) a = if a = b then some v else m.read a := rfl

theorem read_forget (m : Memory) (inside : Nat → Bool) (a : Nat) :
    (m.forget inside).read a = if inside a then unlisted a else m.read a := by
  induction m with
  | nil => simp [Memory.forget, read_nil]
  | cons c m ih =>
    obtain ⟨b, v⟩ := c
    unfold Memory.forget at ih ⊢
    rw [List.filter_cons]
    by_cases hb : inside b
    · simp only [hb, Bool.not_true, Bool.false_eq_true, ↓reduceIte, ih, read_cons]
      by_cases hab : a = b
      · subst hab; simp [hb]
      · simp [hab]
    · simp only [hb, Bool.not_false, ↓reduceIte, read_cons, ih]
      by_cases hab : a = b
      · subst hab; simp [hb]
      · simp [hab]

/-- Inserting a byte where none is listed: that offset reads it, the others read as before. -/
theorem read_insert (m : Memory) (a : Nat) (v : Byte) (h : ∀ c ∈ m, c.1 ≠ a) (b : Nat) :
    (m.insert a v).read b = if b = a then some v else m.read b := by
  induction m with
  | nil => rfl
  | cons c m ih =>
    obtain ⟨x, u⟩ := c
    have hx : x ≠ a := h (x, u) (by simp)
    have hm : ∀ c ∈ m, c.1 ≠ a := fun c hc => h c (by simp [hc])
    unfold Memory.insert
    split
    · simp [read_cons]
    · simp only [read_cons, ih hm]
      by_cases hbx : b = x
      · subst hbx; simp [hx]
      · simp [hbx]

theorem forget_self_ne (m : Memory) (a : Nat) :
    ∀ c ∈ m.forget (fun b => b == a), c.1 ≠ a := by
  intro c hc
  simpa [Memory.forget] using (List.mem_filter.1 hc).2

/-- A write gives its byte at its offset and leaves every other offset alone. -/
theorem read_write (m : Memory) (a : Nat) (v : Byte) (b : Nat) :
    (m.write a v).read b = if b = a then some v else m.read b := by
  unfold Memory.write
  split
  · rename_i hu
    rw [read_forget]
    by_cases hb : b = a
    · subst hb; simp [hu]
    · simp [hb]
  · rw [read_insert _ _ _ (forget_self_ne m a), read_forget]
    by_cases hb : b = a
    · simp [hb]
    · simp [hb]

theorem read_writeBytes (bs : Bytes) (m : Memory) (a b : Nat) :
    (m.writeBytes a bs).read b =
      if a ≤ b ∧ b < a + bs.length then some (bs.getD (b - a) 0x00) else m.read b := by
  induction bs generalizing m a with
  | nil => simp [Memory.writeBytes]
  | cons v rest ih =>
    rw [Memory.writeBytes, ih, read_write]
    simp only [List.length_cons]
    by_cases h1 : a + 1 ≤ b ∧ b < a + 1 + rest.length
    · have h2 : a ≤ b ∧ b < a + (rest.length + 1) := by omega
      have h3 : b - a = (b - (a + 1)) + 1 := by omega
      simp [h1, h2, h3]
    · rw [if_neg h1]
      by_cases h4 : b = a
      · subst h4; simp
      · rw [if_neg h4, if_neg (by omega)]

/-- Before OUTB, memory is as it was; in OUTB stands the output and then zeros. -/
theorem read_setOutput (m : Memory) (p : Params) (Y : Bytes) (a : Nat) :
    (m.setOutput p Y).read a =
      if outbBase ≤ a ∧ a < outbBase + Y.length then some (Y.getD (a - outbBase) 0x00)
      else if outbBase ≤ a ∧ a < outbEnd p then some 0x00 else m.read a := by
  unfold Memory.setOutput
  rw [read_writeBytes, read_forget]
  congr 1
  by_cases h : outbBase ≤ a ∧ a < outbEnd p
  · have hu : unlisted a = some 0x00 := by
      have h1 := h.1
      unfold unlisted ivbBase ivbEnd inbBase
      unfold outbBase at h1 ⊢
      rw [if_neg (by omega)]
    simp [h, hu]
  · simp [h]

/-! ### The canonical form -/

theorem wf_cons (a : Nat) (v : Byte) (m : Memory) :
    Memory.wf ((a, v) :: m) = true ↔
      unlisted a ≠ some v ∧ (∀ c ∈ m, a < c.1) ∧ m.wf = true := by
  simp [Memory.wf, and_assoc]

theorem wf_forget (m : Memory) (inside : Nat → Bool) (h : m.wf = true) :
    (m.forget inside).wf = true := by
  induction m with
  | nil => rfl
  | cons c m ih =>
    obtain ⟨b, v⟩ := c
    rw [wf_cons] at h
    have ih' := ih h.2.2
    unfold Memory.forget at ih' ⊢
    rw [List.filter_cons]
    split
    · exact (wf_cons _ _ _).2 ⟨h.1, fun c hc => h.2.1 c (List.mem_of_mem_filter hc), ih'⟩
    · exact ih'

theorem mem_insert (m : Memory) (a : Nat) (v : Byte) (c : Host.Cell) :
    c ∈ m.insert a v ↔ c = (a, v) ∨ c ∈ m := by
  induction m with
  | nil => simp [Memory.insert]
  | cons d m ih =>
    obtain ⟨b, u⟩ := d
    unfold Memory.insert
    split
    · simp
    · simp only [List.mem_cons, ih]
      tauto

theorem wf_insert (m : Memory) (a : Nat) (v : Byte) (h : m.wf = true) (hv : unlisted a ≠ some v)
    (hne : ∀ c ∈ m, c.1 ≠ a) : (m.insert a v).wf = true := by
  induction m with
  | nil => simp [Memory.insert, Memory.wf, hv]
  | cons d m ih =>
    obtain ⟨b, u⟩ := d
    rw [wf_cons] at h
    have hb : b ≠ a := hne (b, u) (by simp)
    unfold Memory.insert
    split
    · rename_i hab
      rw [wf_cons, wf_cons]
      refine ⟨hv, ?_, h⟩
      intro c hc
      rcases List.mem_cons.1 hc with rfl | hc
      · exact hab
      · exact lt_trans hab (h.2.1 c hc)
    · rename_i hab
      rw [wf_cons]
      refine ⟨h.1, ?_, ih h.2.2 fun c hc => hne c (by simp [hc])⟩
      intro c hc
      rcases (mem_insert _ _ _ _).1 hc with rfl | hc
      · show b < a; omega
      · exact h.2.1 c hc

theorem wf_write (m : Memory) (a : Nat) (v : Byte) (h : m.wf = true) : (m.write a v).wf = true := by
  unfold Memory.write
  split
  · exact wf_forget _ _ h
  · rename_i hv
    exact wf_insert _ _ _ (wf_forget _ _ h) hv (forget_self_ne m a)

theorem wf_writeBytes (bs : Bytes) (m : Memory) (a : Nat) (h : m.wf = true) :
    (m.writeBytes a bs).wf = true := by
  induction bs generalizing m a with
  | nil => exact h
  | cons v rest ih => exact ih _ _ (wf_write _ _ _ h)

theorem wf_writeWord (m : Memory) (a : Nat) (v : Word) (h : m.wf = true) :
    (m.writeWord a v).wf = true := wf_writeBytes _ _ _ h

theorem wf_setOutput (m : Memory) (p : Params) (Y : Bytes) (h : m.wf = true) :
    (m.setOutput p Y).wf = true := wf_writeBytes _ _ _ (wf_forget _ _ h)

/-- Memory after reset is in canonical form. -/
theorem wf_reset : State.reset.mem.wf = true := rfl

/-! ### Which offsets an operation can list -/

theorem mem_write (m : Memory) (a : Nat) (v : Byte) (c : Host.Cell) (h : c ∈ m.write a v) :
    c.1 = a ∨ c ∈ m := by
  unfold Memory.write at h
  split at h
  · exact .inr (List.mem_of_mem_filter h)
  · rcases (mem_insert _ _ _ _).1 h with rfl | h
    · exact .inl rfl
    · exact .inr (List.mem_of_mem_filter h)

theorem mem_writeBytes (bs : Bytes) (m : Memory) (a : Nat) (c : Host.Cell)
    (h : c ∈ m.writeBytes a bs) : (a ≤ c.1 ∧ c.1 < a + bs.length) ∨ c ∈ m := by
  induction bs generalizing m a with
  | nil => exact .inr h
  | cons v rest ih =>
    simp only [List.length_cons]
    rcases ih _ _ h with h1 | h1
    · left; omega
    · rcases mem_write _ _ _ _ h1 with h2 | h2
      · left; omega
      · exact .inr h2

theorem mem_setOutput (m : Memory) (p : Params) (Y : Bytes) (c : Host.Cell)
    (h : c ∈ m.setOutput p Y) : (outbBase ≤ c.1 ∧ c.1 < outbBase + Y.length) ∨ c ∈ m := by
  rcases mem_writeBytes _ _ _ _ h with h | h
  · exact .inl h
  · exact .inr (List.mem_of_mem_filter h)

end Sys2Proof.Machine
end

