-- ==== Sys2Proof/Laws/Ops.lean ====
section
/-! SUPPORT. One lemma for each shared operation that says what it does: the two completions, the
oracles, the pad step and the operands. -/

namespace Sys2Proof.Machine

/-! ### Bytes of a state -/

theorem byteAt_of_read {s t : State} {a : Nat} (hm : t.mem.read a = s.mem.read a)
    (hp : t.powerOns = s.powerOns) : t.byteAt a = s.byteAt a := by
  unfold State.byteAt
  rw [hm, hp]

/-- OUTB after an output is set: the output and then zeros. -/
theorem outByte_setOutput (s : State) (m : Memory) (p : Params) (Y : Bytes)
    (hm : s.mem = m.setOutput p Y) (j : Nat) (hj : j < p.outCap) : s.outByte j = Y.getD j 0x00 := by
  unfold State.outByte State.byteAt
  rw [hm, read_setOutput]
  by_cases h : j < Y.length
  · rw [if_pos (by omega)]; simp
  · rw [if_neg (by omega), if_pos (by unfold outbEnd; omega)]
    rw [List.getD_eq_default _ _ (Nat.le_of_not_lt h)]

/-! ### Capacities -/

theorem inCap_le (p : Params) : p.inCap ≤ 28672 := by
  unfold Params.inCap
  omega

theorem le_inCap (p : Params) : 256 ≤ p.inCap := by
  unfold Params.inCap
  omega

theorem outCap_eq (p : Params) : p.outCap = p.inCap + 512 := rfl

/-! ### The completions -/

/-- The frame of both completions: only OUTB and the result fields change. -/
theorem setOutput_byteAt (s t : State) (Y : Bytes) (hm : t.mem = s.mem.setOutput s.params Y)
    (hp : t.powerOns = s.powerOns) (hY : Y.length ≤ s.params.outCap) (a : Nat)
    (ha : ¬(outbBase ≤ a ∧ a < outbEnd s.params)) : t.byteAt a = s.byteAt a := by
  refine byteAt_of_read ?_ hp
  unfold outbEnd at ha
  rw [hm, read_setOutput, if_neg (by omega), if_neg (by unfold outbEnd; omega)]

/-- What `commit` does, for an output that fits (60_exceptions.md R261). -/
theorem commit_completed (s : State) (Y : Bytes) (k : Nat) (mal : Bool)
    (hY : Y.length ≤ s.params.outCap) (hk : k < 2 ^ 32) : Completed s (commit Y k mal s) Y k mal where
  idle := rfl
  done := rfl
  fail := rfl
  malf := rfl
  err := rfl
  outLen := by
    have := inCap_le s.params
    rw [outCap_eq] at hY
    simp only [commit_outLen, BitVec.toNat_ofNat]
    omega
  blocks := by simp only [commit_blocks, BitVec.toNat_ofNat]; omega
  fits := hY
  out := fun j hj => outByte_setOutput _ s.mem s.params Y rfl j hj
  frame :=
    { params := rfl, ieDone := rfl, ieFail := rfl, cmdLast := rfl, werr := rfl, blksz := rfl,
      inLen := rfl, ivLen := rfl, schedule := rfl, response := rfl, powerOns := rfl,
      bytes := fun a ha => setOutput_byteAt s (commit Y k mal s) Y rfl rfl hY a ha }

/-- What `raiseError` does (60_exceptions.md R262). -/
theorem raiseError_failed (s : State) (e : Err) : Failed s (raiseError e s) e where
  idle := rfl
  done := rfl
  fail := rfl
  malf := rfl
  err := rfl
  outLen := rfl
  blocks := rfl
  out := fun j hj => by
    have h := outByte_setOutput (raiseError e s) s.mem s.params [] rfl j hj
    simpa using h
  frame :=
    { params := rfl, ieDone := rfl, ieFail := rfl, cmdLast := rfl, werr := rfl, blksz := rfl,
      inLen := rfl, ivLen := rfl, schedule := rfl, response := rfl, powerOns := rfl,
      bytes := fun a ha => setOutput_byteAt s (raiseError e s) [] rfl rfl (Nat.zero_le _) a ha }

/-- A completion of a state that differs only in the oracle's fields is one of the state itself. -/
theorem Completed.of_oracle {s u t : State} {Y : Bytes} {k : Nat} {mal : Bool}
    (h : Completed u t Y k mal) (hu : u = { s with rng := u.rng, draws := u.draws }) :
    Completed s t Y k mal := by
  rw [hu] at h
  exact
    { idle := h.idle, done := h.done, fail := h.fail, malf := h.malf, err := h.err,
      outLen := h.outLen, blocks := h.blocks, fits := h.fits, out := h.out,
      frame :=
        { params := h.frame.params, ieDone := h.frame.ieDone, ieFail := h.frame.ieFail,
          cmdLast := h.frame.cmdLast, werr := h.frame.werr, blksz := h.frame.blksz,
          inLen := h.frame.inLen, ivLen := h.frame.ivLen, schedule := h.frame.schedule,
          response := h.frame.response, powerOns := h.frame.powerOns, bytes := h.frame.bytes } }

theorem Failed.of_oracle {s u t : State} {e : Err} (h : Failed u t e)
    (hu : u = { s with rng := u.rng, draws := u.draws }) : Failed s t e := by
  rw [hu] at h
  exact
    { idle := h.idle, done := h.done, fail := h.fail, malf := h.malf, err := h.err,
      outLen := h.outLen, blocks := h.blocks, out := h.out,
      frame :=
        { params := h.frame.params, ieDone := h.frame.ieDone, ieFail := h.frame.ieFail,
          cmdLast := h.frame.cmdLast, werr := h.frame.werr, blksz := h.frame.blksz,
          inLen := h.frame.inLen, ivLen := h.frame.ivLen, schedule := h.frame.schedule,
          response := h.frame.response, powerOns := h.frame.powerOns, bytes := h.frame.bytes } }

/-! ### The oracles -/

theorem randomBytes_state (k : Nat) (s : State) :
    (randomBytes k s).2 = { s with rng := s.rng.tail, draws := s.draws + 1 } := rfl

/-- The random source returns as many bytes as it was asked for (00_scope.md R13). -/
theorem randomBytes_length {k : Nat} {s : State} {R : Bytes} (h : (randomBytes k s).1 = some R) :
    R.length = k := by
  unfold randomBytes at h
  simp only at h
  split at h
  · split at h
    · cases h
    · obtain rfl := Option.some.inj h; simp
  · cases h
  · obtain rfl := Option.some.inj h; simp

/-- A listed answer of at least k bytes is what a request of k bytes gets. -/
theorem randomBytes_listed (k : Nat) (s : State) (b : Bytes) (rest : List RngAnswer)
    (h : s.rng = .bytes b :: rest) (hb : k ≤ b.length) : (randomBytes k s).1 = some (b.take k) := by
  unfold randomBytes
  simp only [h, Option.some.injEq]
  apply List.ext_getElem
  · simp [hb]
  · intro i h1 h2
    have hi : i < b.length := by simp at h1; omega
    simp [List.getElem?_eq_getElem hi]

/-- The random bytes of the pad step, and what the request leaves. -/
theorem fillBytes_spec (sch : Scheme) (L bs : Nat) (s : State) :
    (fillCount sch L bs = 0 ∧ fillBytes sch L bs s = (some [], s)) ∨
    (fillCount sch L bs ≠ 0 ∧ fillBytes sch L bs s = randomBytes (fillCount sch L bs) s) := by
  by_cases h : fillCount sch L bs = 0 <;> simp [fillBytes, h]

theorem fillBytes_length {sch : Scheme} {L bs : Nat} {s : State} {R : Bytes}
    (h : (fillBytes sch L bs s).1 = some R) : R.length = fillCount sch L bs := by
  rcases fillBytes_spec sch L bs s with ⟨h0, h1⟩ | ⟨_, h1⟩
  · rw [h1] at h; obtain rfl := Option.some.inj h; simp [h0]
  · rw [h1] at h; exact randomBytes_length h

theorem padStep_eq (sch : Scheme) (bs : Nat) (s : State) :
    padStep sch bs s =
      ((fillBytes sch (dataOperand s).length bs s).1.map (padFn sch (dataOperand s) bs),
        (fillBytes sch (dataOperand s).length bs s).2) := rfl

/-- The pad step changes only the oracle's fields. -/
theorem padStep_oracle (sch : Scheme) (bs : Nat) (s : State) :
    (padStep sch bs s).2 =
      { s with rng := (padStep sch bs s).2.rng, draws := (padStep sch bs s).2.draws } := by
  rw [padStep_eq]
  rcases fillBytes_spec sch (dataOperand s).length bs s with ⟨_, h⟩ | ⟨_, h⟩
  · rw [h]
  · rw [h]; rfl

/-! ### The cipher port -/

theorem swapBlocks_involutive (x y b : Bytes) : swapBlocks x y (swapBlocks x y b) = b := by
  unfold swapBlocks
  by_cases h1 : b = x
  · by_cases h2 : y = x <;> simp [h1, h2]
  · by_cases h2 : b = y <;> simp [h1, h2]

theorem swapBlocks_length (x y b : Bytes) (h : x.length = y.length) :
    (swapBlocks x y b).length = b.length := by
  unfold swapBlocks
  split
  · rename_i h1; rw [h1, h]
  · split
    · rename_i h1; rw [h1, h]
    · rfl

theorem blockSwaps_length (c : CipherPort) :
    ∀ p ∈ blockSwaps c, p.1.length = c.bs ∧ p.2.length = c.bs := by
  intro p hp
  simpa using (List.mem_filter.1 hp).2

theorem foldl_swaps_length (l : List (Bytes × Bytes)) (hl : ∀ p ∈ l, p.1.length = p.2.length)
    (b : Bytes) : (l.foldl (fun x p => swapBlocks p.1 p.2 x) b).length = b.length := by
  induction l generalizing b with
  | nil => rfl
  | cons p l ih =>
    rw [List.foldl_cons, ih (fun q hq => hl q (by simp [hq])),
      swapBlocks_length _ _ _ (hl p (by simp))]

theorem foldr_swaps_length (l : List (Bytes × Bytes)) (hl : ∀ p ∈ l, p.1.length = p.2.length)
    (b : Bytes) : (l.foldr (fun p x => swapBlocks p.1 p.2 x) b).length = b.length := by
  induction l with
  | nil => rfl
  | cons p l ih =>
    rw [List.foldr_cons, swapBlocks_length _ _ _ (hl p (by simp)),
      ih fun q hq => hl q (by simp [hq])]

/-- E keeps the length of a string. -/
theorem cipherE_length (c : CipherPort) (b : Bytes) : (cipherE c b).length = b.length :=
  foldl_swaps_length _ (fun p hp => by
    have h := blockSwaps_length c p hp
    rw [h.1, h.2]) b

/-- D keeps the length of a string. -/
theorem cipherD_length (c : CipherPort) (b : Bytes) : (cipherD c b).length = b.length :=
  foldr_swaps_length _ (fun p hp => by
    have h := blockSwaps_length c p hp
    rw [h.1, h.2]) b

/-! ### Strings -/

theorem xorBytes_length (X Y : Bytes) (h : X.length ≤ Y.length) :
    (xorBytes X Y).length = X.length := by simp [xorBytes, h]

theorem bigEndianBytes_length (k v : Nat) : (bigEndianBytes k v).length = k := by
  simp [bigEndianBytes]

theorem dataOperand_length (s : State) : (dataOperand s).length = s.inLen.toNat := by
  simp [dataOperand]

theorem ivOperand_length (n : Nat) (s : State) : (ivOperand n s).length = n := by
  simp [ivOperand]

theorem cutSegments_length (bs k : Nat) (X : Bytes) : (cutSegments bs k X).length = k := by
  induction k generalizing X with
  | zero => rfl
  | succ k ih => simp [cutSegments, ih]

/-- Segment i is the slice that 00_scope.md R15 names. -/
theorem cutSegments_getElem? (bs k : Nat) (X : Bytes) (i : Nat) (h : i < k) :
    (cutSegments bs k X)[i]? = some (blockAt bs X i) := by
  induction k generalizing X i with
  | zero => omega
  | succ k ih =>
    cases i with
    | zero => simp [cutSegments, blockAt]
    | succ i =>
      simp only [cutSegments, List.getElem?_cons_succ]
      rw [ih _ _ (by omega)]
      simp [blockAt, List.drop_drop, Nat.succ_mul, Nat.add_comm]

theorem segmentCount_le (bs n : Nat) (h : 1 ≤ bs) : segmentCount bs n ≤ n := by
  unfold segmentCount
  rcases Nat.eq_zero_or_pos n with rfl | hn
  · simp only [Nat.zero_add]
    rw [Nat.div_eq_of_lt (by omega)]
  · rw [Nat.div_le_iff_le_mul_add_pred (by omega)]
    have := Nat.le_mul_of_pos_left n h
    omega

/-- The segments hold the whole string. -/
theorem cutSegments_flatten (bs k : Nat) (X : Bytes) (h : X.length ≤ k * bs) :
    (cutSegments bs k X).flatten = X := by
  induction k generalizing X with
  | zero => simp at h; simp [cutSegments, h]
  | succ k ih =>
    simp only [cutSegments, List.flatten_cons]
    rw [ih _ (by simp only [List.length_drop]; rw [Nat.succ_mul] at h; omega), List.take_append_drop]

theorem segmentCount_mul_le (bs n : Nat) (h : 1 ≤ bs) : n ≤ segmentCount bs n * bs := by
  unfold segmentCount
  have h1 := Nat.div_add_mod (n + bs - 1) bs
  have h2 := Nat.mod_lt (n + bs - 1) h
  rw [Nat.mul_comm] at h1
  omega

theorem segments_flatten (bs : Nat) (X : Bytes) (h : 1 ≤ bs) : (segments bs X).flatten = X :=
  cutSegments_flatten _ _ _ (segmentCount_mul_le _ _ h)

/-! ### Lengths of results -/

/-- The longest padded string (00_scope.md R10, 41_padding.md R126). -/
theorem padFn_length_le (sch : Scheme) (D : Bytes) (bs : Nat) (R : Bytes)
    (hR : R.length = fillCount sch D.length bs) (h5 : sch = .pkcs5 → bs = 8) :
    (padFn sch D bs R).length ≤ D.length + bs + 1 := by
  cases sch <;>
    simp [padFn, padNoneFn, padZeroFn, padX923Fn, padIso9797Fn, padIso10126Fn, padPkcs5Fn,
      padPkcs7Fn, padCount, fillCount] at hR h5 ⊢ <;> omega

theorem zeroStrip_length_le (X : Bytes) : (zeroStrip X).length ≤ X.length := by
  have h := (List.dropWhile_suffix (l := X.reverse) fun b => b == 0x00).length_le
  simpa [zeroStrip] using h

/-- An unpadded string is no longer than its input. -/
theorem unpadFn_length_le (sch : Scheme) (X : Bytes) : (unpadFn sch X).1.length ≤ X.length := by
  have hc : (countUnpad X).1.length ≤ X.length := by
    unfold countUnpad
    split
    · simp
    · simp only
      split
      · exact le_refl _
      · split <;> simp
  have hi : (unpadIso9797Fn X).1.length ≤ X.length := by
    have := zeroStrip_length_le X
    unfold unpadIso9797Fn
    simp only
    split
    · simp
    · simp only [List.length_take]; omega
  cases sch
  · exact le_refl _
  · exact zeroStrip_length_le X
  · exact hc
  · exact hi
  · exact hc
  · exact hc
  · exact hc

theorem xorKeystream_length (X K : Bytes) (h : X.length ≤ K.length) :
    (xorKeystream X K).length = X.length := by
  unfold xorKeystream
  exact xorBytes_length _ _ (by simp [h])

end Sys2Proof.Machine
end

