-- ==== Sys2Proof/Laws/Exec.lean ====
section
/-! SUPPORT. What a command can do: every meaning answers a next state, which is one completion of the
state (the oracle's fields aside) with an output that fits in OUTB, or what an immediate command
writes. -/

namespace Sys2Proof.Machine

/-! ### Output lengths of the modes -/

theorem xorBytes_length_le (X Y : Bytes) : (xorBytes X Y).length ≤ X.length := by
  simp [xorBytes]

theorem xorKeystream_length_le (X K : Bytes) : (xorKeystream X K).length ≤ X.length :=
  xorBytes_length_le _ _

/-- A segment-wise function whose segments do not grow does not grow the string. -/
theorem flatten_length_le_of_forall₂ {X Y : List Bytes}
    (h : List.Forall₂ (fun x y : Bytes => y.length ≤ x.length) X Y) :
    Y.flatten.length ≤ X.flatten.length := by
  induction h with
  | nil => exact le_refl _
  | cons h _ ih => simp only [List.flatten_cons, List.length_append]; omega

theorem ecbEnc_noGrowth (c : CipherPort) (P : List Bytes) :
    List.Forall₂ (fun x y : Bytes => y.length ≤ x.length) P (ecbEnc c P) := by
  induction P with
  | nil => exact .nil
  | cons p P ih => exact .cons (le_of_eq (cipherE_length c p)) ih

theorem ecbDec_noGrowth (c : CipherPort) (C : List Bytes) :
    List.Forall₂ (fun x y : Bytes => y.length ≤ x.length) C (ecbDec c C) := by
  induction C with
  | nil => exact .nil
  | cons p C ih => exact .cons (le_of_eq (cipherD_length c p)) ih

theorem cbcEnc_noGrowth (c : CipherPort) (prev : Bytes) (P : List Bytes) :
    List.Forall₂ (fun x y : Bytes => y.length ≤ x.length) P (cbcEnc c prev P) := by
  induction P generalizing prev with
  | nil => exact .nil
  | cons p P ih =>
    refine .cons ?_ (ih _)
    rw [cipherE_length]
    exact xorBytes_length_le _ _

theorem cbcDec_noGrowth (c : CipherPort) (prev : Bytes) (C : List Bytes) :
    List.Forall₂ (fun x y : Bytes => y.length ≤ x.length) C (cbcDec c prev C) := by
  induction C generalizing prev with
  | nil => exact .nil
  | cons p C ih =>
    refine .cons (le_trans (xorBytes_length_le _ _) ?_) (ih _)
    rw [cipherD_length]

theorem cfbEnc_noGrowth (c : CipherPort) (prev : Bytes) (P : List Bytes) :
    List.Forall₂ (fun x y : Bytes => y.length ≤ x.length) P (cfbEnc c prev P) := by
  induction P generalizing prev with
  | nil => exact .nil
  | cons p P ih => exact .cons (xorKeystream_length_le _ _) (ih _)

theorem cfbDec_noGrowth (c : CipherPort) (prev : Bytes) (C : List Bytes) :
    List.Forall₂ (fun x y : Bytes => y.length ≤ x.length) C (cfbDec c prev C) := by
  induction C generalizing prev with
  | nil => exact .nil
  | cons p C ih => exact .cons (xorKeystream_length_le _ _) (ih _)

theorem ofbApply_noGrowth (c : CipherPort) (prev : Bytes) (X : List Bytes) :
    List.Forall₂ (fun x y : Bytes => y.length ≤ x.length) X (ofbApply c prev X) := by
  induction X generalizing prev with
  | nil => exact .nil
  | cons p X ih => exact .cons (xorKeystream_length_le _ _) (ih _)

theorem ctrApply_noGrowth (c : CipherPort) (iv : Bytes) (i : Nat) (X : List Bytes) :
    List.Forall₂ (fun x y : Bytes => y.length ≤ x.length) X (ctrApply c iv i X) := by
  induction X generalizing i with
  | nil => exact .nil
  | cons p X ih => exact .cons (xorKeystream_length_le _ _) (ih _)

theorem gctrSegments_noGrowth (c : CipherPort) (cb : Bytes) (X : List Bytes) :
    List.Forall₂ (fun x y : Bytes => y.length ≤ x.length) X (gctrSegments c cb X) := by
  induction X generalizing cb with
  | nil => exact .nil
  | cons p X ih => exact .cons (xorKeystream_length_le _ _) (ih _)

theorem modeEncSegments_noGrowth (m : ChainMode) (c : CipherPort) (iv : Bytes) (P : List Bytes) :
    List.Forall₂ (fun x y : Bytes => y.length ≤ x.length) P (modeEncSegments m c iv P) := by
  cases m
  · exact ecbEnc_noGrowth c P
  · exact cbcEnc_noGrowth c iv P
  · exact cfbEnc_noGrowth c iv P
  · exact ofbApply_noGrowth c iv P
  · exact ctrApply_noGrowth c iv 0 P

theorem modeDecSegments_noGrowth (m : ChainMode) (c : CipherPort) (iv : Bytes) (C : List Bytes) :
    List.Forall₂ (fun x y : Bytes => y.length ≤ x.length) C (modeDecSegments m c iv C) := by
  cases m
  · exact ecbDec_noGrowth c C
  · exact cbcDec_noGrowth c iv C
  · exact cfbDec_noGrowth c iv C
  · exact ofbApply_noGrowth c iv C
  · exact ctrApply_noGrowth c iv 0 C

theorem modeEnc_length_le (m : ChainMode) (c : CipherPort) (iv P : Bytes) (h : 1 ≤ c.bs) :
    (modeEnc m c iv P).1.length ≤ P.length := by
  have h1 := flatten_length_le_of_forall₂ (modeEncSegments_noGrowth m c iv (segments c.bs P))
  rwa [segments_flatten _ _ h] at h1

theorem modeDec_length_le (m : ChainMode) (c : CipherPort) (iv C : Bytes) (h : 1 ≤ c.bs) :
    (modeDec m c iv C).1.length ≤ C.length := by
  have h1 := flatten_length_le_of_forall₂ (modeDecSegments_noGrowth m c iv (segments c.bs C))
  rwa [segments_flatten _ _ h] at h1

theorem gctr_length_le (c : CipherPort) (icb X : Bytes) : (gctr c icb X).length ≤ X.length := by
  have h1 := flatten_length_le_of_forall₂ (gctrSegments_noGrowth c icb (segments 16 X))
  rwa [segments_flatten _ _ (by omega)] at h1

theorem gcmTag_length_le (c : CipherPort) (N C : Bytes) (h : N.length = 12) :
    (gcmTag c N C).length ≤ 16 := by
  refine le_trans (xorBytes_length_le _ _) ?_
  rw [cipherE_length]
  simp [gcmJ0, h]

/-! ### What passing the checks says -/

theorem firstError_none {l : List (Option Err)} (h : firstError l = none) :
    ∀ c ∈ l, c = none := by
  intro c hc
  have := List.findSome?_eq_none_iff.1 h c hc
  simpa using this

theorem checkInLen_none {s : State} (h : checkInLen s = none) : s.inLen.toNat ≤ s.params.inCap := by
  unfold checkInLen at h
  split at h
  · cases h
  · omega

theorem checkBlockSize_none {bs : Nat} (h : checkBlockSize bs = none) : 1 ≤ bs ∧ bs ≤ 256 := by
  unfold checkBlockSize at h
  split at h
  · cases h
  · omega

theorem checkPkcs5_none {sch : Scheme} {bs : Nat} (h : checkPkcs5 sch bs = none) :
    sch = .pkcs5 → bs = 8 := by
  intro hs
  unfold checkPkcs5 at h
  split at h
  · cases h
  · rename_i h1; by_contra h2; exact h1 ⟨hs, h2⟩

theorem padChecks_none {sch : Scheme} {s : State} (h : padChecks sch s = none) :
    s.inLen.toNat ≤ s.params.inCap ∧ (1 ≤ s.blksz.toNat ∧ s.blksz.toNat ≤ 256) ∧
      (sch = .pkcs5 → s.blksz.toNat = 8) := by
  have h1 := firstError_none h
  simp only [List.mem_cons, List.not_mem_nil, or_false, forall_eq_or_imp, forall_eq] at h1
  exact ⟨checkInLen_none h1.1, checkBlockSize_none h1.2.1, checkPkcs5_none h1.2.2⟩

theorem unpadChecks_none {s : State} (h : unpadChecks s = none) :
    s.inLen.toNat ≤ s.params.inCap := by
  have h1 := firstError_none h
  simp only [List.mem_cons, List.not_mem_nil, or_false, forall_eq] at h1
  exact checkInLen_none h1

theorem encChecks_none {m : ChainMode} {sch : Scheme} {s : State} (h : encChecks m sch s = none) :
    s.inLen.toNat ≤ s.params.inCap ∧ (1 ≤ s.params.cipher.bs ∧ s.params.cipher.bs ≤ 256) ∧
      (sch = .pkcs5 → s.params.cipher.bs = 8) := by
  have h1 := firstError_none h
  simp only [List.mem_cons, List.not_mem_nil, or_false, forall_eq_or_imp, forall_eq] at h1
  exact ⟨checkInLen_none h1.2.1, checkBlockSize_none h1.2.2.1, checkPkcs5_none h1.2.2.2.1⟩

theorem decChecks_none {m : ChainMode} {sch : Scheme} {s : State} (h : decChecks m sch s = none) :
    s.inLen.toNat ≤ s.params.inCap ∧ (1 ≤ s.params.cipher.bs ∧ s.params.cipher.bs ≤ 256) := by
  have h1 := firstError_none h
  simp only [List.mem_cons, List.not_mem_nil, or_false, forall_eq_or_imp, forall_eq] at h1
  exact ⟨checkInLen_none h1.2.1, checkBlockSize_none h1.2.2.1⟩

theorem gcmChecks_none {s : State} (h : gcmChecks s = none) :
    s.inLen.toNat ≤ s.params.inCap := by
  have h1 := firstError_none h
  simp only [List.mem_cons, List.not_mem_nil, or_false, forall_eq_or_imp, forall_eq] at h1
  exact checkInLen_none h1.2.1

/-! ### The shape of a completion -/

/-- `t` is a completion of `s`: a commit of an output that fits, or a raise, on a state that differs
from `s` only in the oracle's fields. -/
def Completion (s t : State) : Prop :=
  ∃ u : State, u = { s with rng := u.rng, draws := u.draws } ∧
    ((∃ Y k mal, Y.length ≤ s.params.outCap ∧ k < 2 ^ 32 ∧ t = commit Y k mal u) ∨
      ∃ e, t = raiseError e u)

theorem completion_raise (s : State) (e : Err) : Completion s (raiseError e s) :=
  ⟨s, rfl, .inr ⟨e, rfl⟩⟩

theorem completion_commit (s : State) (Y : Bytes) (k : Nat) (mal : Bool)
    (hY : Y.length ≤ s.params.outCap) (hk : k ≤ s.params.outCap) :
    Completion s (commit Y k mal s) := by
  refine ⟨s, rfl, .inl ⟨Y, k, mal, hY, ?_, rfl⟩⟩
  have := inCap_le s.params
  rw [outCap_eq] at hk
  omega

/-- A padded data operand fits in OUTB. -/
theorem padStep_length {sch : Scheme} {bs : Nat} {s : State} {P : Bytes}
    (h : (padStep sch bs s).1 = some P) (hL : s.inLen.toNat ≤ s.params.inCap) (hbs : bs ≤ 256)
    (h5 : sch = .pkcs5 → bs = 8) : P.length ≤ s.params.outCap := by
  rw [padStep_eq] at h
  obtain ⟨R, hR, rfl⟩ := Option.map_eq_some_iff.1 h
  have h1 := padFn_length_le sch (dataOperand s) bs R (fillBytes_length hR) h5
  rw [dataOperand_length] at h1
  rw [outCap_eq]
  omega

theorem runPad_completion (sch : Scheme) (s : State) : Completion s (runPad sch s) := by
  unfold runPad
  split
  · exact completion_raise s _
  · rename_i hc
    obtain ⟨hL, hbs, h5⟩ := padChecks_none hc
    have ho := padStep_oracle sch s.blksz.toNat s
    split
    · rename_i s' he
      rw [he] at ho
      exact ⟨s', ho, .inr ⟨_, rfl⟩⟩
    · rename_i Y s' he
      rw [he] at ho
      refine ⟨s', ho, .inl ⟨Y, 0, false, ?_, by omega, rfl⟩⟩
      exact padStep_length (by rw [he]) hL hbs.2 h5

theorem runUnpad_completion (sch : Scheme) (s : State) : Completion s (runUnpad sch s) := by
  unfold runUnpad
  split
  · exact completion_raise s _
  · rename_i hc
    have hL := unpadChecks_none hc
    refine completion_commit s _ _ _ ?_ (Nat.zero_le _)
    have h1 := unpadFn_length_le sch (dataOperand s)
    rw [dataOperand_length] at h1
    rw [outCap_eq]
    omega

theorem runEnc_completion (m : ChainMode) (sch : Scheme) (s : State) :
    Completion s (runEnc m sch s) := by
  unfold runEnc
  split
  · exact completion_raise s _
  · rename_i hc
    obtain ⟨hL, hbs, h5⟩ := encChecks_none hc
    have ho := padStep_oracle sch s.params.cipher.bs s
    split
    · rename_i s' he
      rw [he] at ho
      exact ⟨s', ho, .inr ⟨_, rfl⟩⟩
    · rename_i P s' he
      rw [he] at ho
      have hP := padStep_length (P := P) (by rw [he]) hL hbs.2 h5
      have h1 := modeEnc_length_le m s.params.cipher (ivOperand s.params.cipher.bs s) P hbs.1
      have h2 := segmentCount_le s.params.cipher.bs P.length hbs.1
      have h3 := inCap_le s.params
      have h4 := outCap_eq s.params
      exact ⟨s', ho, .inl ⟨_, _, false, le_trans h1 hP, by show segmentCount _ _ < _; omega, rfl⟩⟩

theorem runDec_completion (m : ChainMode) (sch : Scheme) (s : State) :
    Completion s (runDec m sch s) := by
  unfold runDec
  split
  · exact completion_raise s _
  · rename_i hc
    obtain ⟨hL, hbs⟩ := decChecks_none hc
    have h0 := dataOperand_length s
    have h1 := modeDec_length_le m s.params.cipher (ivOperand s.params.cipher.bs s) (dataOperand s) hbs.1
    have h2 := segmentCount_le s.params.cipher.bs (dataOperand s).length hbs.1
    have h4 := outCap_eq s.params
    refine completion_commit s _ _ _ (le_trans (unpadFn_length_le sch _) (by omega)) ?_
    show segmentCount _ _ ≤ _
    omega

theorem runEncGcm_completion (s : State) : Completion s (runEncGcm s) := by
  unfold runEncGcm
  split
  · exact completion_raise s _
  · rename_i hc
    have hL := gcmChecks_none hc
    have h0 := dataOperand_length s
    have h4 := outCap_eq s.params
    have h2 := segmentCount_le 16 (dataOperand s).length (by omega)
    refine completion_commit s _ _ _ ?_ (by omega)
    have h1 := gctr_length_le s.params.cipher (inc32 (gcmJ0 (ivOperand 12 s))) (dataOperand s)
    have h3 := gcmTag_length_le s.params.cipher (ivOperand 12 s)
      (gctr s.params.cipher (inc32 (gcmJ0 (ivOperand 12 s))) (dataOperand s)) (ivOperand_length 12 s)
    rw [List.length_append]
    omega

theorem runDecGcm_completion (s : State) : Completion s (runDecGcm s) := by
  unfold runDecGcm
  split
  · exact completion_raise s _
  · rename_i hc
    have hL := gcmChecks_none hc
    have h0 := dataOperand_length s
    have h4 := outCap_eq s.params
    simp only
    split
    · exact completion_raise s _
    · split
      · exact completion_raise s _
      · have h2 := segmentCount_le 16 ((dataOperand s).take ((dataOperand s).length - 16)).length
          (by omega)
        have h1 := gctr_length_le s.params.cipher (inc32 (gcmJ0 (ivOperand 12 s)))
          ((dataOperand s).take ((dataOperand s).length - 16))
        have h3 : ((dataOperand s).take ((dataOperand s).length - 16)).length ≤
          (dataOperand s).length := by simp
        exact completion_commit s _ _ _ (by omega) (by omega)

/-! ### What a command can do -/

/-- What `exec` can do: it always answers a next state, which an immediate command makes from its
own fields and any other command makes by a completion. -/
theorem exec_cases (i : Instr) (s : State) :
    (i = .nop ∧ exec i s = .next { s with cmdLast := 0x00000000 }) ∨
    (i = .clrstat ∧ exec i s = .next (clearStatus { s with cmdLast := 0x00000005 })) ∨
    (i ≠ .nop ∧ i ≠ .clrstat ∧ ∃ t, exec i s = .next t ∧ Completion s t) := by
  have pad (sch : Scheme) := runPad_completion sch s
  have unpad (sch : Scheme) := runUnpad_completion sch s
  have enc (m : ChainMode) (sch : Scheme) := runEnc_completion m sch s
  have dec (m : ChainMode) (sch : Scheme) := runDec_completion m sch s
  cases i with
  | nop => exact .inl ⟨rfl, rfl⟩
  | clrstat => exact .inr (.inl ⟨rfl, rfl⟩)
  | padNone => exact .inr (.inr ⟨by simp, by simp, _, rfl, pad _⟩)
  | padZero => exact .inr (.inr ⟨by simp, by simp, _, rfl, pad _⟩)
  | padX923 => exact .inr (.inr ⟨by simp, by simp, _, rfl, pad _⟩)
  | padIso9797 => exact .inr (.inr ⟨by simp, by simp, _, rfl, pad _⟩)
  | padIso10126 => exact .inr (.inr ⟨by simp, by simp, _, rfl, pad _⟩)
  | padPkcs5 => exact .inr (.inr ⟨by simp, by simp, _, rfl, pad _⟩)
  | padPkcs7 => exact .inr (.inr ⟨by simp, by simp, _, rfl, pad _⟩)
  | unpadNone => exact .inr (.inr ⟨by simp, by simp, _, rfl, unpad _⟩)
  | unpadZero => exact .inr (.inr ⟨by simp, by simp, _, rfl, unpad _⟩)
  | unpadX923 => exact .inr (.inr ⟨by simp, by simp, _, rfl, unpad _⟩)
  | unpadIso9797 => exact .inr (.inr ⟨by simp, by simp, _, rfl, unpad _⟩)
  | unpadIso10126 => exact .inr (.inr ⟨by simp, by simp, _, rfl, unpad _⟩)
  | unpadPkcs5 => exact .inr (.inr ⟨by simp, by simp, _, rfl, unpad _⟩)
  | unpadPkcs7 => exact .inr (.inr ⟨by simp, by simp, _, rfl, unpad _⟩)
  | encEcb sch => exact .inr (.inr ⟨by simp, by simp, _, rfl, enc _ _⟩)
  | encCbc sch => exact .inr (.inr ⟨by simp, by simp, _, rfl, enc _ _⟩)
  | encCfb sch => exact .inr (.inr ⟨by simp, by simp, _, rfl, enc _ _⟩)
  | encOfb sch => exact .inr (.inr ⟨by simp, by simp, _, rfl, enc _ _⟩)
  | encCtr sch => exact .inr (.inr ⟨by simp, by simp, _, rfl, enc _ _⟩)
  | encGcm => exact .inr (.inr ⟨by simp, by simp, _, rfl, runEncGcm_completion s⟩)
  | decEcb sch => exact .inr (.inr ⟨by simp, by simp, _, rfl, dec _ _⟩)
  | decCbc sch => exact .inr (.inr ⟨by simp, by simp, _, rfl, dec _ _⟩)
  | decCfb sch => exact .inr (.inr ⟨by simp, by simp, _, rfl, dec _ _⟩)
  | decOfb sch => exact .inr (.inr ⟨by simp, by simp, _, rfl, dec _ _⟩)
  | decCtr sch => exact .inr (.inr ⟨by simp, by simp, _, rfl, dec _ _⟩)
  | decGcm => exact .inr (.inr ⟨by simp, by simp, _, rfl, runDecGcm_completion s⟩)

end Sys2Proof.Machine
end

