-- ==== Sys2Proof/Laws/Step.lean ====
section
/-! SUPPORT. What a step can do: one inversion lemma each for the decoder's range, a bus access, a CMD
write, a bus write, and the step. -/

namespace Sys2Proof.Machine

/-- The engine's decode never gives an immediate command (30_encoding.md R96, R97). -/
theorem decodeEngine_not_immediate {w : Word} {i : Instr} (h : decodeEngine w = .ok i) :
    i ≠ .nop ∧ i ≠ .clrstat := by
  have hmode : ∀ (f : Fields) (sch : Scheme) (row : ChainMode → Scheme → Instr) (gcm : Instr),
      (∀ m, row m sch ≠ .nop ∧ row m sch ≠ .clrstat) → gcm ≠ .nop → gcm ≠ .clrstat →
      decodeMode f sch row gcm = .ok i → i ≠ .nop ∧ i ≠ .clrstat := by
    intro f sch row gcm hrow hg1 hg2 hd
    unfold decodeMode at hd
    split at hd
    · split at hd
      · cases hd; exact ⟨hg1, hg2⟩
      · cases hd
    · split at hd
      · cases hd; exact hrow _
      · cases hd
  unfold decodeEngine at h
  simp only at h
  split at h
  · cases h
  split at h
  · cases h
  split at h
  · cases h
  split at h
  · cases h
  rename_i sch _
  split at h
  · split at h
    · cases h; cases sch <;> simp [padInstr]
    · cases h
  split at h
  · split at h
    · cases h; cases sch <;> simp [unpadInstr]
    · cases h
  split at h
  · exact hmode _ _ _ _ (fun m => by cases m <;> simp [encInstr]) (by simp) (by simp) h
  · exact hmode _ _ _ _ (fun m => by cases m <;> simp [decInstr]) (by simp) (by simp) h

/-- The engine step of a latched word is a completion (10_state.md R33). -/
theorem engineStep_completion (w : Word) (s : State) :
    ∃ t, engineStep w s = .next t ∧ Completion s t := by
  unfold engineStep
  split
  · rename_i i hd
    have hi := decodeEngine_not_immediate hd
    rcases exec_cases i s with h | h | h
    · exact absurd h.1 hi.1
    · exact absurd h.1 hi.2
    · exact h.2.2
  · exact ⟨_, rfl, completion_raise s _⟩

/-- When an access is served, and at which offset (20_memory.md R60, R66). -/
theorem accessOffset_ok {p : Params} {addr width off : Nat}
    (h : accessOffset p addr width = .ok off) :
    p.base ≤ addr ∧ addr < p.base + 0x10000 ∧ width = 32 ∧ off = addr - p.base ∧ off % 4 = 0 ∧
      off < 0x10000 := by
  unfold accessOffset at h
  split at h
  · rename_i h1
    split at h
    · rename_i h2
      cases h
      exact ⟨h1.1, h1.2, h2.1, rfl, h2.2, by omega⟩
    · cases h
  · cases h

theorem accessOffset_legal {p : Params} {addr width : Nat} (h1 : p.base ≤ addr)
    (h2 : addr < p.base + 0x10000) (h3 : width = 32) (h4 : (addr - p.base) % 4 = 0) :
    accessOffset p addr width = .ok (addr - p.base) := by
  simp [accessOffset, h1, h2, h3, h4]

/-- The effects a bus write of `v` at `off` can have on a state (20_memory.md R68, R71). -/
inductive BusEffect (off : Nat) (v : Word) (s : State) : State → Prop
  | ignored : BusEffect off v s s
  | dropped : BusEffect off v s (dropWrite s)
  | ctrl : BusEffect off v s (writeCtrl v s)
  | status : BusEffect off v s (writeStatus v s)
  | nop : s.isBusy = false → BusEffect off v s { s with cmdLast := 0x00000000 }
  | clrstat : s.isBusy = false → BusEffect off v s (clearStatus { s with cmdLast := 0x00000005 })
  | accepted : s.isBusy = false → decodeImmediate v = none → BusEffect off v s (accept v s)
  | blksz : s.isBusy = false → BusEffect off v s { s with blksz := v }
  | inLen : s.isBusy = false → BusEffect off v s { s with inLen := v }
  | ivLen : s.isBusy = false → BusEffect off v s { s with ivLen := v }
  | bytes : s.isBusy = false →
      (ivbBase ≤ off ∧ off < ivbEnd) ∨ (inbBase ≤ off ∧ off < inbEnd s.params) →
      BusEffect off v s { s with mem := s.mem.writeWord off v }

/-- What a CMD write does (30_encoding.md R96). -/
theorem writeCmd_effect (off : Nat) (w : Word) (s : State) :
    ∃ t, writeCmd w s = .next t ∧ BusEffect off w s t := by
  unfold writeCmd
  by_cases hb : s.isBusy = true
  · rw [if_pos hb]; exact ⟨_, rfl, .dropped⟩
  · rw [if_neg hb]
    have hb' : s.isBusy = false := by simpa using hb
    by_cases h0 : w = 0x00000000
    · subst h0; exact ⟨_, rfl, .nop hb'⟩
    · by_cases h5 : w = 0x00000005
      · subst h5; exact ⟨_, rfl, .clrstat hb'⟩
      · have hd : decodeImmediate w = none := by
          unfold decodeImmediate
          rw [if_neg h0, if_neg h5]
        rw [hd]
        exact ⟨_, rfl, .accepted hb' hd⟩

theorem storeUnlessBusy_effect {off : Nat} {v : Word} {s stored : State}
    (h : s.isBusy = false → BusEffect off v s stored) :
    ∃ t, storeUnlessBusy s stored = .next t ∧ BusEffect off v s t := by
  refine ⟨_, rfl, ?_⟩
  split
  · exact .dropped
  · rename_i hb
    exact h (by simpa using hb)

/-- Which offsets stand in IVB and INB. -/
theorem placeAt_ivb {p : Params} {off : Nat} (h : placeAt p off = .ivb) :
    ivbBase ≤ off ∧ off < ivbEnd := by
  unfold placeAt at h
  repeat' split at h
  all_goals simp_all

theorem placeAt_inb {p : Params} {off : Nat} (h : placeAt p off = .inb) :
    inbBase ≤ off ∧ off < inbEnd p := by
  unfold placeAt at h
  repeat' split at h
  all_goals simp_all

/-- What a bus write does: it always answers a next state (20_memory.md R68, R71). -/
theorem busWrite_effect (off : Nat) (v : Word) (s : State) :
    ∃ t, busWrite off v s = .next t ∧ BusEffect off v { s with response := none } t := by
  unfold busWrite
  simp only
  split
  · exact ⟨_, rfl, .ctrl⟩
  · exact writeCmd_effect off v _
  · exact ⟨_, rfl, .status⟩
  · exact storeUnlessBusy_effect .blksz
  · exact storeUnlessBusy_effect .inLen
  · exact storeUnlessBusy_effect .ivLen
  · rename_i hp
    exact storeUnlessBusy_effect fun hb => .bytes hb (.inl (placeAt_ivb hp))
  · rename_i hp
    exact storeUnlessBusy_effect fun hb => .bytes hb (.inr (placeAt_inb hp))
  all_goals exact ⟨_, rfl, .ignored⟩

/-- The effects a step can have; `u` is the state without the event that is taken. -/
inductive StepEffect (u : State) : State → Prop
  | waits : StepEffect u u
  | completes (t : State) : (∃ w, u.eng = .busy w) → Completion u t → StepEffect u t
  | resets : StepEffect u (powerOnReset u)
  | reads (off : Nat) : off % 4 = 0 → off < 0x10000 → StepEffect u (busRead off u)
  | writes (off : Nat) (v : Word) (t : State) : off % 4 = 0 → off < 0x10000 →
      BusEffect off v { u with response := none } t → StepEffect u t

theorem engineTurn_effect (u : State) : ∃ t, engineTurn u = .next t ∧ StepEffect u t := by
  unfold engineTurn
  split
  · exact ⟨u, rfl, .waits⟩
  · rename_i w hw
    obtain ⟨t, h1, h2⟩ := engineStep_completion w u
    exact ⟨t, h1, .completes t ⟨w, hw⟩ h2⟩

/-- What a step can do when it answers a next state. -/
theorem step_effect {s t : State} (h : step s = .next t) :
    StepEffect { s with schedule := s.schedule.tail } t := by
  have turn : ∀ u : State, engineTurn u = .next t → StepEffect u t := by
    intro u hu
    obtain ⟨t', h1, h2⟩ := engineTurn_effect u
    rw [h1] at hu
    cases hu
    exact h2
  unfold step at h
  split at h
  · rename_i hs
    have hu : ({ s with schedule := s.schedule.tail } : State) = s := by
      rw [hs, List.tail_nil, ← hs]
    rw [hu]
    exact turn s h
  · rename_i e rest hs
    rw [hs, List.tail_cons]
    unfold takeEvent at h
    split at h
    · split at h
      · rename_i off ha
        obtain ⟨_, _, _, _, h4, h5⟩ := accessOffset_ok ha
        cases h
        exact .reads off h4 h5
      · cases h
    · split at h
      · rename_i v _ off ha
        obtain ⟨_, _, _, _, h4, h5⟩ := accessOffset_ok ha
        obtain ⟨t', h1, h2⟩ := busWrite_effect off v { s with schedule := rest }
        rw [h1] at h
        cases h
        exact .writes off v t h4 h5 h2
      · cases h
    · exact turn _ h
    · cases h
      exact .resets

end Sys2Proof.Machine
end

