-- ==== Sys2Proof/Laws/PerInstr.lean ====
section
/-! SUPPORT. A law of every command as syntax: the word of a command has exactly the fields of its row
(30_encoding.md R90 to R93), and these fields are well formed (R98). -/

namespace Sys2Proof.Laws

/-- The fields of a command's word are those of its row, and well formed. -/
def EncodingFields.Statement (i : Instr) : Prop :=
  fieldsOf (encode i) = i.fields ∧ i.fields.wellFormed = true

theorem EncodingFields.nop : EncodingFields.Statement .nop := ⟨by decide, by decide⟩

theorem EncodingFields.clrstat : EncodingFields.Statement .clrstat := ⟨by decide, by decide⟩

theorem EncodingFields.padNone : EncodingFields.Statement .padNone := ⟨by decide, by decide⟩

theorem EncodingFields.padZero : EncodingFields.Statement .padZero := ⟨by decide, by decide⟩

theorem EncodingFields.padX923 : EncodingFields.Statement .padX923 := ⟨by decide, by decide⟩

theorem EncodingFields.padIso9797 : EncodingFields.Statement .padIso9797 := ⟨by decide, by decide⟩

theorem EncodingFields.padIso10126 : EncodingFields.Statement .padIso10126 := ⟨by decide, by decide⟩

theorem EncodingFields.padPkcs5 : EncodingFields.Statement .padPkcs5 := ⟨by decide, by decide⟩

theorem EncodingFields.padPkcs7 : EncodingFields.Statement .padPkcs7 := ⟨by decide, by decide⟩

theorem EncodingFields.unpadNone : EncodingFields.Statement .unpadNone := ⟨by decide, by decide⟩

theorem EncodingFields.unpadZero : EncodingFields.Statement .unpadZero := ⟨by decide, by decide⟩

theorem EncodingFields.unpadX923 : EncodingFields.Statement .unpadX923 := ⟨by decide, by decide⟩

theorem EncodingFields.unpadIso9797 : EncodingFields.Statement .unpadIso9797 := ⟨by decide, by decide⟩

theorem EncodingFields.unpadIso10126 : EncodingFields.Statement .unpadIso10126 := ⟨by decide, by decide⟩

theorem EncodingFields.unpadPkcs5 : EncodingFields.Statement .unpadPkcs5 := ⟨by decide, by decide⟩

theorem EncodingFields.unpadPkcs7 : EncodingFields.Statement .unpadPkcs7 := ⟨by decide, by decide⟩

theorem EncodingFields.encEcb (sch : Scheme) : EncodingFields.Statement (.encEcb sch) := by
  cases sch <;> exact ⟨by decide, by decide⟩

theorem EncodingFields.encCbc (sch : Scheme) : EncodingFields.Statement (.encCbc sch) := by
  cases sch <;> exact ⟨by decide, by decide⟩

theorem EncodingFields.encCfb (sch : Scheme) : EncodingFields.Statement (.encCfb sch) := by
  cases sch <;> exact ⟨by decide, by decide⟩

theorem EncodingFields.encOfb (sch : Scheme) : EncodingFields.Statement (.encOfb sch) := by
  cases sch <;> exact ⟨by decide, by decide⟩

theorem EncodingFields.encCtr (sch : Scheme) : EncodingFields.Statement (.encCtr sch) := by
  cases sch <;> exact ⟨by decide, by decide⟩

theorem EncodingFields.encGcm : EncodingFields.Statement .encGcm := ⟨by decide, by decide⟩

theorem EncodingFields.decEcb (sch : Scheme) : EncodingFields.Statement (.decEcb sch) := by
  cases sch <;> exact ⟨by decide, by decide⟩

theorem EncodingFields.decCbc (sch : Scheme) : EncodingFields.Statement (.decCbc sch) := by
  cases sch <;> exact ⟨by decide, by decide⟩

theorem EncodingFields.decCfb (sch : Scheme) : EncodingFields.Statement (.decCfb sch) := by
  cases sch <;> exact ⟨by decide, by decide⟩

theorem EncodingFields.decOfb (sch : Scheme) : EncodingFields.Statement (.decOfb sch) := by
  cases sch <;> exact ⟨by decide, by decide⟩

theorem EncodingFields.decCtr (sch : Scheme) : EncodingFields.Statement (.decCtr sch) := by
  cases sch <;> exact ⟨by decide, by decide⟩

theorem EncodingFields.decGcm : EncodingFields.Statement .decGcm := ⟨by decide, by decide⟩

end Sys2Proof.Laws
end

