-- ==== Sys2Proof/Tests/Slice0.lean ====
section
/-! SUPPORT. Tests of the model: ill-formed words, the words of every command, one-step vectors of
95_test_vectors.md (its ids stand in the comments; L2 vectors were computed from the rules), and for
every statement with hypotheses or cases a witness that meets them. -/

-- Each `decide +kernel` is checked before the next theorem is read, not beside it.
set_option Elab.async false

namespace Sys2Proof.Machine.Tests

open Sys2Proof Sys2Proof.Machine

/-! ### WellFormed: one ill-formed term for each check -/

/-- The fields of PAD.PKCS7, a legal command. -/
def goodFields : Fields := { op := 1, scheme := 6, bit7 := 0, mode := 0, high := 0 }

theorem test_wellFormed_padPkcs7 : goodFields.wellFormed = true := by decide

theorem test_illFormed_op : { goodFields with op := 6 : Fields }.opLegal = false := by decide

theorem test_illFormed_immediate :
    { goodFields with op := 0 : Fields }.immediateCanonical = false := by decide

theorem test_illFormed_reserved :
    { goodFields with bit7 := 1 : Fields }.reservedZero = false := by decide

theorem test_illFormed_scheme : { goodFields with scheme := 7 : Fields }.schemeLegal = false := by
  decide

theorem test_illFormed_padMode : { goodFields with mode := 1 : Fields }.padModeZero = false := by
  decide

theorem test_illFormed_mode :
    { goodFields with op := 3, mode := 6 : Fields }.modeLegal = false := by decide

theorem test_illFormed_gcmScheme :
    { goodFields with op := 4, mode := 5 : Fields }.gcmSchemeZero = false := by decide

theorem test_illFormed_refused :
    [{ goodFields with op := 6 }, { goodFields with op := 0 }, { goodFields with bit7 := 1 },
      { goodFields with scheme := 7 }, { goodFields with mode := 1 },
      { goodFields with op := 3, mode := 6 }, { goodFields with op := 4, mode := 5 }].all
      (fun f : Fields => !f.wellFormed) = true := by decide

/-! ### Decode: a word of every command, written bit by bit from 30_encoding.md R90 to R93

The fields stand as MODE 10:8, bit 7, SCHEME 6:4, OP 3:0. -/

theorem test_decode_nop : decode 0b000_0_000_0000 = .ok .nop := by
  decide

theorem test_decode_clrstat : decode 0b000_0_000_0101 = .ok .clrstat := by
  decide

theorem test_decode_padNone : decode 0b000_0_000_0001 = .ok .padNone := by
  decide

theorem test_decode_padZero : decode 0b000_0_001_0001 = .ok .padZero := by
  decide

theorem test_decode_padX923 : decode 0b000_0_010_0001 = .ok .padX923 := by
  decide

theorem test_decode_padIso9797 : decode 0b000_0_011_0001 = .ok .padIso9797 := by
  decide

theorem test_decode_padIso10126 : decode 0b000_0_100_0001 = .ok .padIso10126 := by
  decide

theorem test_decode_padPkcs5 : decode 0b000_0_101_0001 = .ok .padPkcs5 := by
  decide

theorem test_decode_padPkcs7 : decode 0b000_0_110_0001 = .ok .padPkcs7 := by
  decide

theorem test_decode_unpadNone : decode 0b000_0_000_0010 = .ok .unpadNone := by
  decide

theorem test_decode_unpadZero : decode 0b000_0_001_0010 = .ok .unpadZero := by
  decide

theorem test_decode_unpadX923 : decode 0b000_0_010_0010 = .ok .unpadX923 := by
  decide

theorem test_decode_unpadIso9797 : decode 0b000_0_011_0010 = .ok .unpadIso9797 := by
  decide

theorem test_decode_unpadIso10126 : decode 0b000_0_100_0010 = .ok .unpadIso10126 := by
  decide

theorem test_decode_unpadPkcs5 : decode 0b000_0_101_0010 = .ok .unpadPkcs5 := by
  decide

theorem test_decode_unpadPkcs7 : decode 0b000_0_110_0010 = .ok .unpadPkcs7 := by
  decide

theorem test_decode_encEcb : decode 0b000_0_110_0011 = .ok (.encEcb .pkcs7) := by
  decide

theorem test_decode_encCbc : decode 0b001_0_011_0011 = .ok (.encCbc .iso9797) := by
  decide

theorem test_decode_encCfb : decode 0b010_0_001_0011 = .ok (.encCfb .zero) := by
  decide

theorem test_decode_encOfb : decode 0b011_0_100_0011 = .ok (.encOfb .iso10126) := by
  decide

theorem test_decode_encCtr : decode 0b100_0_010_0011 = .ok (.encCtr .x923) := by
  decide

theorem test_decode_encGcm : decode 0b101_0_000_0011 = .ok .encGcm := by
  decide

theorem test_decode_decEcb : decode 0b000_0_001_0100 = .ok (.decEcb .zero) := by
  decide

theorem test_decode_decCbc : decode 0b001_0_101_0100 = .ok (.decCbc .pkcs5) := by
  decide

theorem test_decode_decCfb : decode 0b010_0_011_0100 = .ok (.decCfb .iso9797) := by
  decide

theorem test_decode_decOfb : decode 0b011_0_110_0100 = .ok (.decOfb .pkcs7) := by
  decide

theorem test_decode_decCtr : decode 0b100_0_100_0100 = .ok (.decCtr .iso10126) := by
  decide

theorem test_decode_decGcm : decode 0b101_0_000_0100 = .ok .decGcm := by
  decide

/-- The illegal words X1, X3, X5, X6, X7, X9, X11, X12, X13, X14, X15, X16 and X18. -/
theorem test_decode_illegal :
    decode 0x00000006 = .error .illegalOp ∧ decode 0x00000010 = .error .noncanonImm ∧
    decode 0x00000105 = .error .noncanonImm ∧ decode 0x00000081 = .error .rsvdBits ∧
    decode 0x00000801 = .error .rsvdBits ∧ decode 0x00000071 = .error .illegalScheme ∧
    decode 0x00000774 = .error .illegalScheme ∧ decode 0x00000101 = .error .modeNotZero ∧
    decode 0x00000502 = .error .modeNotZero ∧ decode 0x00000603 = .error .illegalMode ∧
    decode 0x00000704 = .error .illegalMode ∧ decode 0x00000513 = .error .gcmScheme ∧
    decode 0x0000008F = .error .illegalOp := by decide

theorem test_decodeTableWord :
    decodeTableWord 32 0x00000163 = some (.encCbc .pkcs7) ∧ decodeTableWord 32 0x00000773 = none
        := by
  decide

/-! ### One step of each command -/

/-- The bytes of "TrumanWong". -/
def text : Bytes := [0x54, 0x72, 0x75, 0x6D, 0x61, 0x6E, 0x57, 0x6F, 0x6E, 0x67]

/-- The IV A0 A1 A2 A3. -/
def iv4 : Bytes := [0xA0, 0xA1, 0xA2, 0xA3]

/-- The port whose E takes each first block to the second, by one exchange each. -/
def portOf (bs : Nat) (pairs : List (Bytes × Bytes)) : CipherPort :=
  { bs := bs, status := .ok,
    swaps := pairs.foldl
      (fun done p =>
        done ++ [(cipherE { bs := bs, status := .ok, swaps := done } p.1, p.2)]) [] }

/-- E of the toy port TOYn: E(x)[j] = x[(j + 1) mod n] xor (j + 1). -/
def toyE (x : Bytes) : Bytes :=
  (List.range x.length).map fun j =>
    x.getD ((j + 1) % x.length) 0x00 ^^^ BitVec.ofNat 8 (j + 1)

/-- The port TOY4 on the blocks a test enciphers or deciphers. -/
def toy4 (blocks : List Bytes) : CipherPort := portOf 4 (blocks.map fun x => (x, toyE x))

/-- Power-on reset, then the operands of a vector. -/
def loaded (blksz : Nat) (X iv : Bytes) (c : CipherPort) : State :=
  { State.reset with
    params := { State.reset.params with cipher := c }
    blksz := BitVec.ofNat 32 blksz
    inLen := BitVec.ofNat 32 X.length
    ivLen := BitVec.ofNat 32 iv.length
    mem := (Memory.writeBytes [] 0x1000 X).writeBytes 0x100 iv }

/-- The same with what the random source answers. -/
def withRandom (a : RngAnswer) (s : State) : State := { s with rng := [a] }

/-- STATUS, ERR, BLOCKS and OUTB[0..OUT_LEN) after the command word `w` is issued and run. -/
def result (w : Nat) (s : State) : Option (Nat × Nat × Nat × Bytes) :=
  match step (s.withFetchWord 32 w) with
  | .next t =>
    some (t.statusWord.toNat, t.err.toNat, t.blocks.toNat,
      (List.range t.outLen.toNat).map t.outByte)
  | _ => none

/-- The port of a PAD or UNPAD vector, which does not use it. -/
def noPort : CipherPort := toy4 []

/-- P1. -/
theorem test_padNone : result 0x1 (loaded 8 [0x41, 0x42, 0x43] [] noPort) =
    some (0x2, 0, 0, [0x41, 0x42, 0x43]) := by decide +kernel

/-- P25. -/
theorem test_padNone_checksBlockSize : result 0x1 (loaded 0 [] [] noPort) =
    some (0x4, 0x101, 0, []) := by decide +kernel

/-- P2. -/
theorem test_padZero : result 0x11 (loaded 8 [0x41, 0x42, 0x43] [] noPort) =
    some (0x2, 0, 0, [0x41, 0x42, 0x43, 0x00, 0x00, 0x00, 0x00, 0x00]) := by decide +kernel

/-- P11. -/
theorem test_padZero_empty : result 0x11 (loaded 4 [] [] noPort) =
    some (0x2, 0, 0, [0x00, 0x00, 0x00, 0x00]) := by decide +kernel

/-- P3. -/
theorem test_padX923 : result 0x21 (loaded 8 [0x41, 0x42, 0x43] [] noPort) =
    some (0x2, 0, 0, [0x41, 0x42, 0x43, 0x00, 0x00, 0x00, 0x00, 0x05]) := by decide +kernel

/-- P12. -/
theorem test_padX923_fullBlock : result 0x21 (loaded 4 [0x01, 0x02, 0x03, 0x04] [] noPort) =
    some (0x2, 0, 0, [0x01, 0x02, 0x03, 0x04, 0x00, 0x00, 0x00, 0x04]) := by decide +kernel

/-- P14. -/
theorem test_padIso9797_markerCompletesBlock : result 0x31 (loaded 4 [0x01, 0x02, 0x03] [] noPort) =
    some (0x2, 0, 0, [0x01, 0x02, 0x03, 0x80, 0x00, 0x00, 0x00, 0x00]) := by decide +kernel

/-- P13. -/
theorem test_padIso9797_blockSize1 : result 0x31 (loaded 1 [] [] noPort) =
    some (0x2, 0, 0, [0x80, 0x00]) := by decide +kernel

/-- P19. -/
theorem test_padIso10126 : result 0x41 (withRandom (.bytes (List.replicate 5 0x5A)) (loaded 16
    text [] noPort)) =
    some (0x2, 0, 0, (text ++ [0x5A, 0x5A, 0x5A, 0x5A, 0x5A, 0x06])) := by decide +kernel

/-- P20. -/
theorem test_padIso10126_notAsked : result 0x41 (withRandom .fail (loaded 4 [0x01, 0x02,
    0x03] [] noPort)) =
    some (0x2, 0, 0, [0x01, 0x02, 0x03, 0x01]) := by decide +kernel

/-- P6. -/
theorem test_padPkcs5 : result 0x51 (loaded 8 [0x41, 0x42, 0x43] [] noPort) =
    some (0x2, 0, 0, [0x41, 0x42, 0x43, 0x05, 0x05, 0x05, 0x05, 0x05]) := by decide +kernel

/-- P22. -/
theorem test_padPkcs5_blockSize16 : result 0x51 (loaded 16 [0x41, 0x42, 0x43] [] noPort) =
    some (0x4, 0x501, 0, []) := by decide +kernel

/-- P18, the document's example. -/
theorem test_padPkcs7 : result 0x61 (loaded 16 text [] noPort) =
    some (0x2, 0, 0, (text ++ List.replicate 6 0x06)) := by decide +kernel

/-- P8. -/
theorem test_padPkcs7_fullBlock : result 0x61 (loaded 8 [0x30, 0x31, 0x32, 0x33, 0x34, 0x35, 0x36,
    0x37] [] noPort) =
    some (0x2, 0, 0, [0x30, 0x31, 0x32, 0x33, 0x34, 0x35, 0x36, 0x37, 0x08, 0x08, 0x08, 0x08,
        0x08, 0x08, 0x08, 0x08]) := by decide +kernel

/-- U1. -/
theorem test_unpadNone : result 0x2 (loaded 0 [0x41, 0x42, 0x00, 0x00] [] noPort) =
    some (0x2, 0, 0, [0x41, 0x42, 0x00, 0x00]) := by decide +kernel

/-- U3. -/
theorem test_unpadZero_innerZero : result 0x12 (loaded 0 [0x41, 0x00, 0x42, 0x00, 0x00] [] noPort) =
    some (0x2, 0, 0, [0x41, 0x00, 0x42]) := by decide +kernel

/-- U20. -/
theorem test_unpadZero_allZero : result 0x12 (loaded 0 [0x00, 0x00, 0x00] [] noPort) =
    some (0x2, 0, 0, []) := by decide +kernel

/-- U4. -/
theorem test_unpadX923 : result 0x22 (loaded 0 [0x41, 0x42, 0x43, 0x00, 0x00, 0x00, 0x00,
    0x05] [] noPort) =
    some (0x2, 0, 0, [0x41, 0x42, 0x43]) := by decide +kernel

/-- U14. -/
theorem test_unpadX923_zerosNotChecked : result 0x22 (loaded 0 [0xFF, 0xFF, 0xFF, 0x02] [] noPort) =
    some (0x2, 0, 0, [0xFF, 0xFF]) := by decide +kernel

/-- U19. -/
theorem test_unpadIso9797_markerAfterMarker : result 0x32 (loaded 0 [0x41, 0x80, 0x80,
    0x00] [] noPort) =
    some (0x2, 0, 0, [0x41, 0x80]) := by decide +kernel

/-- U15. -/
theorem test_unpadIso9797_noMarker : result 0x32 (loaded 0 [0x41, 0x42, 0x00, 0x00] [] noPort) =
    some (0xA, 0, 0, [0x41]) := by decide +kernel

/-- U6. -/
theorem test_unpadIso10126 : result 0x42 (loaded 0 [0x41, 0x42, 0x43, 0xAA, 0xAA, 0xAA, 0xAA,
    0x05] [] noPort) =
    some (0x2, 0, 0, [0x41, 0x42, 0x43]) := by decide +kernel

/-- U7. -/
theorem test_unpadPkcs5 : result 0x52 (loaded 0 [0x41, 0x42, 0x43, 0x05, 0x05, 0x05, 0x05,
    0x05] [] noPort) =
    some (0x2, 0, 0, [0x41, 0x42, 0x43]) := by decide +kernel

/-- The corner case of 41_padding.md R139. -/
theorem test_unpadPkcs5_countTooLarge : result 0x52 (loaded 0 [0x41, 0x0A] [] noPort) =
    some (0xA, 0, 0, []) := by decide +kernel

/-- U9. -/
theorem test_unpadPkcs7_padNotChecked : result 0x62 (loaded 0 [0x41, 0x42, 0x43, 0x09, 0x09, 0x09,
    0x09, 0x03] [] noPort) =
    some (0x2, 0, 0, [0x41, 0x42, 0x43, 0x09, 0x09]) := by decide +kernel

/-- U11. -/
theorem test_unpadPkcs7_countZero : result 0x62 (loaded 0 [0x01, 0x02, 0x03, 0x00] [] noPort) =
    some (0xA, 0, 0, [0x01, 0x02, 0x03, 0x00]) := by decide +kernel

/-- M1. -/
theorem test_encEcb_pkcs7 : result 0x63 (loaded 16 text [] (toy4 [[0x54, 0x72, 0x75, 0x6D], [0x61,
    0x6E, 0x57, 0x6F], [0x6E, 0x67, 0x02, 0x02]])) =
    some (0x2, 0, 3, [0x73, 0x77, 0x6E, 0x50, 0x6F, 0x55, 0x6C, 0x65, 0x66, 0x00, 0x01,
        0x6A]) := by decide +kernel

/-- M3. -/
theorem test_encEcb_notBlockMultiple : result 0x3 (loaded 16 text [] noPort) =
    some (0x4, 0x401, 0, []) := by decide +kernel

/-- M2. -/
theorem test_decEcb_pkcs7 : result 0x64 (loaded 16 [0x73, 0x77, 0x6E, 0x50, 0x6F, 0x55, 0x6C,
    0x65, 0x66, 0x00, 0x01, 0x6A] [] (toy4 [[0x54, 0x72, 0x75, 0x6D], [0x61, 0x6E, 0x57, 0x6F],
    [0x6E, 0x67, 0x02, 0x02]])) =
    some (0x2, 0, 3, text) := by decide +kernel

/-- E23. -/
theorem test_decEcb_iso9797_noMarker : result 0x34 (loaded 16 [0x03, 0x01, 0x07,
    0x05] [] (toy4 [[0x01, 0x02, 0x03, 0x04]])) =
    some (0xA, 0, 1, [0x01, 0x02, 0x03]) := by decide +kernel

/-- M4. -/
theorem test_encCbc_pkcs7 : result 0x163 (loaded 16 text iv4 (toy4 [[0xF4, 0xD3, 0xD7, 0xCE],
    [0xB3, 0xBB, 0x9A, 0x9F], [0xD4, 0xFF, 0x9E, 0xB5]])) =
    some (0x2, 0, 3, [0xD2, 0xD5, 0xCD, 0xF0, 0xBA, 0x98, 0x9C, 0xB7, 0xFE, 0x9C, 0xB6,
        0xD0]) := by decide +kernel

/-- E1. -/
theorem test_encCbc_ivLen : result 0x163 (loaded 16 text [0xA0, 0xA1, 0xA2] noPort) =
    some (0x4, 0x301, 0, []) := by decide +kernel

/-- M5. -/
theorem test_decCbc_pkcs7 : result 0x164 (loaded 16 [0xD2, 0xD5, 0xCD, 0xF0, 0xBA, 0x98, 0x9C,
    0xB7, 0xFE, 0x9C, 0xB6, 0xD0] iv4 (toy4 [[0xF4, 0xD3, 0xD7, 0xCE], [0xB3, 0xBB, 0x9A, 0x9F],
    [0xD4, 0xFF, 0x9E, 0xB5]])) =
    some (0x2, 0, 3, text) := by decide +kernel

/-- E16: the cipher's status is checked before the IV length. -/
theorem test_decCbc_cipherFailed :
    result 0x164 (loaded 16 text [0xA0, 0xA1, 0xA2] { noPort with status := .failed 0x2A }) =
      some (0x4, 0x104, 0, []) := by decide +kernel

/-- M9. -/
theorem test_encCfb_none : result 0x203 (loaded 16 text iv4 (toy4 [[0xA0, 0xA1, 0xA2, 0xA3],
    [0xF4, 0xD2, 0xD5, 0xC9], [0xB2, 0xB9, 0x9D, 0x9F]])) =
    some (0x2, 0, 3, [0xF4, 0xD2, 0xD5, 0xC9, 0xB2, 0xB9, 0x9D, 0x9F, 0xD6,
        0xF8]) := by decide +kernel

/-- W3, the document's CFB example, with E(IV) from A3. -/
theorem test_encCfb_zero :
    let iv : Bytes := [0x31, 0x32, 0x33, 0x34, 0x35, 0x36, 0x37, 0x38, 0x31, 0x32, 0x33, 0x34,
        0x35, 0x36, 0x37, 0x38]
    result 0x213 (loaded 16 text iv (portOf 16 [(iv, [0x6D, 0xAC, 0x1C, 0x56, 0xE7, 0x47, 0xFA,
        0xE0, 0x3A, 0xCF, 0x8C, 0x68, 0x91, 0xE4, 0x28, 0xE0])])) =
      some (0x2, 0, 1, [0x39, 0xDE, 0x69, 0x3B, 0x86, 0x29, 0xAD, 0x8F, 0x54, 0xA8, 0x8C, 0x68,
          0x91, 0xE4, 0x28, 0xE0]) := by
  decide +kernel

/-- M10. -/
theorem test_decCfb_none : result 0x204 (loaded 16 [0xF4, 0xD2, 0xD5, 0xC9, 0xB2, 0xB9, 0x9D,
    0x9F, 0xD6, 0xF8] iv4 (toy4 [[0xA0, 0xA1, 0xA2, 0xA3], [0xF4, 0xD2, 0xD5, 0xC9], [0xB2, 0xB9,
    0x9D, 0x9F]])) =
    some (0x2, 0, 3, text) := by decide +kernel

/-- E9. -/
theorem test_decCfb_partialSegment : result 0x204 (loaded 16 [0x54, 0x72, 0x75, 0x6D, 0x61,
    0x6E] iv4 (toy4 [[0xA0, 0xA1, 0xA2, 0xA3], [0x54, 0x72, 0x75, 0x6D]])) =
    some (0x2, 0, 2, [0xF4, 0xD2, 0xD5, 0xC9, 0x12, 0x19]) := by decide +kernel

/-- M13. -/
theorem test_encOfb_none : result 0x303 (loaded 16 text iv4 (toy4 [[0xA0, 0xA1, 0xA2, 0xA3],
    [0xA0, 0xA0, 0xA0, 0xA4], [0xA1, 0xA2, 0xA7, 0xA4]])) =
    some (0x2, 0, 3, [0xF4, 0xD2, 0xD5, 0xC9, 0xC0, 0xCC, 0xF0, 0xCB, 0xCD,
        0xC2]) := by decide +kernel

/-- M11. -/
theorem test_encOfb_pkcs7 : result 0x363 (loaded 16 text iv4 (toy4 [[0xA0, 0xA1, 0xA2, 0xA3],
    [0xA0, 0xA0, 0xA0, 0xA4], [0xA1, 0xA2, 0xA7, 0xA4]])) =
    some (0x2, 0, 3, [0xF4, 0xD2, 0xD5, 0xC9, 0xC0, 0xCC, 0xF0, 0xCB, 0xCD, 0xC2, 0xA5,
        0xA7]) := by decide +kernel

/-- M12. -/
theorem test_decOfb_pkcs7 : result 0x364 (loaded 16 [0xF4, 0xD2, 0xD5, 0xC9, 0xC0, 0xCC, 0xF0,
    0xCB, 0xCD, 0xC2, 0xA5, 0xA7] iv4 (toy4 [[0xA0, 0xA1, 0xA2, 0xA3], [0xA0, 0xA0, 0xA0, 0xA4],
    [0xA1, 0xA2, 0xA7, 0xA4]])) =
    some (0x2, 0, 3, text) := by decide +kernel

/-- E2. -/
theorem test_decOfb_ivLen : result 0x364 (loaded 16 text [0xA0, 0xA1, 0xA2, 0xA3, 0x00] noPort) =
    some (0x4, 0x301, 0, []) := by decide +kernel

/-- M23. -/
theorem test_encCtr_wraps : result 0x403 (loaded 16 [0x00, 0x00, 0x00, 0x00, 0x00, 0x00, 0x00,
    0x00, 0x00, 0x00, 0x00, 0x00] [0xFF, 0xFF, 0xFF, 0xFF] (toy4 [[0xFF, 0xFF, 0xFF, 0xFF], [0x00,
    0x00, 0x00, 0x00], [0x00, 0x00, 0x00, 0x01]])) =
    some (0x2, 0, 3, [0xFE, 0xFD, 0xFC, 0xFB, 0x01, 0x02, 0x03, 0x04, 0x01, 0x02, 0x02,
        0x04]) := by decide +kernel

/-- M25. -/
theorem test_encCtr_carries : result 0x403 (loaded 16 [0x00, 0x00, 0x00, 0x00, 0x00, 0x00, 0x00,
    0x00] [0x00, 0x00, 0x00, 0xFF] (toy4 [[0x00, 0x00, 0x00, 0xFF], [0x00, 0x00, 0x01, 0x00]])) =
    some (0x2, 0, 2, [0x01, 0x02, 0xFC, 0x04, 0x01, 0x03, 0x03, 0x04]) := by decide +kernel

/-- M16. -/
theorem test_decCtr_pkcs7 : result 0x464 (loaded 16 [0xF4, 0xD2, 0xD5, 0xC9, 0xC1, 0xCE, 0xF0,
    0xCB, 0xCE, 0xC7, 0xA4, 0xA6] iv4 (toy4 [[0xA0, 0xA1, 0xA2, 0xA3], [0xA0, 0xA1, 0xA2, 0xA4],
    [0xA0, 0xA1, 0xA2, 0xA5]])) =
    some (0x2, 0, 3, text) := by decide +kernel

/-- AES-128 with the all-zero key on the three blocks that GCM test case 2 enciphers. The first
    value
is PRESUMED (FIPS 197); the other two are read off G1 and G2. -/
def aesZero : CipherPort :=
  portOf 16
    [ (List.replicate 16 0x00, [0x66, 0xE9, 0x4B, 0xD4, 0xEF, 0x8A, 0x2C, 0x3B, 0x88, 0x4C, 0xFA,
        0x59, 0xCA, 0x34, 0x2B, 0x2E]),
      (List.replicate 15 0x00 ++ [0x01], [0x58, 0xE2, 0xFC, 0xCE, 0xFA, 0x7E, 0x30, 0x61, 0x36,
          0x7F, 0x1D, 0x57, 0xA4, 0xE7, 0x45, 0x5A]),
      (List.replicate 15 0x00 ++ [0x02], [0x03, 0x88, 0xDA, 0xCE, 0x60, 0xB6, 0xA3, 0x92, 0xF3,
          0x28, 0xC2, 0xB9, 0x71, 0xB2, 0xFE, 0x78]) ]

/-- The output of G2. -/
def sealed : Bytes :=
  [0x03, 0x88, 0xDA, 0xCE, 0x60, 0xB6, 0xA3, 0x92, 0xF3, 0x28, 0xC2, 0xB9, 0x71, 0xB2, 0xFE,
      0x78] ++
    [0xAB, 0x6E, 0x47, 0xD4, 0x2C, 0xEC, 0x13, 0xBD, 0xF5, 0x3A, 0x67, 0xB2, 0x12, 0x57, 0xBD, 0xDF]

/-- G2. -/
theorem test_encGcm : result 0x503 (loaded 16 (List.replicate 16 0x00) (List.replicate 12 0x00)
    aesZero) =
    some (0x2, 0, 1, sealed) := by decide +kernel

/-- G8. -/
theorem test_encGcm_nonceLen : result 0x503 (loaded 16 [] (List.replicate 16 0x00) aesZero) =
    some (0x4, 0x701, 0, []) := by decide +kernel

/-- G3. -/
theorem test_decGcm : result 0x504 (loaded 16 sealed (List.replicate 12 0x00) aesZero) =
    some (0x2, 0, 1, (List.replicate 16 0x00)) := by decide +kernel

/-- G6. -/
theorem test_decGcm_tagMismatch : result 0x504 (loaded 16 (sealed.take 31 ++ [0x5F])
    (List.replicate 12 0x00) aesZero) =
    some (0x4, 0x103, 0, []) := by decide +kernel

/-- The example of 44_control.md R230, on a state with DONE set. -/
theorem test_nop : result 0x0 { State.reset with done := true, cmdLast := 0x61 } =
    some (0x2, 0, 0, []) := by decide +kernel

/-- The example of 44_control.md R231, with the other three flags set as well. -/
theorem test_clrstat :
    result 0x5 { State.reset with fail := true, malf := true, werr := true, err := 0x301 } =
      some (0x0, 0, 0, []) := by decide +kernel

/-! ### The bus -/

/-- The word an access gives back, or none. -/
def answer (s : State) : Option Word :=
  match step s with
  | .next t => t.response
  | _ => none

/-- C1 and C3. -/
theorem test_constantRegisters :
    answer ((loaded 16 [] [] noPort).nextRead 0x000) = some 0x504D0001 ∧
    answer ((loaded 16 [] [] noPort).nextRead 0x004) = some 0x00011000 ∧
    answer ((loaded 16 [] [] { noPort with status := .failed 0x2A }).nextRead 0x01C) =
      some 0x2A010004 := by decide +kernel

/-- C8. -/
theorem test_ctrl_stores_enables :
    (match step (State.reset.nextWrite 0x008 0xFFFFFFFE) with
      | .next t => t.ctrlWord
      | _ => 0) = 0x00000006 := by decide +kernel

/-- The little-endian words of 20_memory.md R65 on INB. -/
theorem test_littleEndian :
    answer ((loaded 16 [0x41, 0x42, 0x43, 0x44] [] noPort).nextRead 0x1000) = some 0x44434241 := by
  decide +kernel

/-- C10. -/
theorem test_busError :
    (match step { State.reset with schedule := [.read 0x011 32] } with
      | .fault .busError => true
      | _ => false) = true ∧
    (match step { State.reset with schedule := [.read 0x010 16] } with
      | .fault .busError => true
      | _ => false) = true := by decide +kernel

/-- The example of 44_control.md R232. -/
theorem test_softReset_while_busy :
    (match step ({ accept 0x61 State.reset with werr := true }.nextWrite 0x008 0x1) with
      | .next t => decide (t.eng = .idle ∧ t.statusWord = 0 ∧ t.cmdLast = 0)
      | _ => false) = true := by decide +kernel

/-! ### Witnesses: states and operands that meet the hypotheses of the statements

A witness for a statement whose cases are ranges takes the values at the ends of each range.
    IN_CAP is
4096 in every state here. -/

/-- An IDLE state with a result, flags and both interrupts on. -/
def idleState : State :=
  { loaded 8 text iv4 noPort with ieDone := true, ieFail := true, done := true, outLen := 16 }

/-- The same while a command runs. -/
def busyState (w : Word) : State := accept w idleState

theorem witness_EncodeThenDecode : encode (.encCbc .pkcs7) = encode (.encCbc .pkcs7) := rfl

theorem witness_DecodeThenEncode : decode 0x00000163 = .ok (.encCbc .pkcs7) := by decide

/-- A word of each outcome of EngineDecodeOrder, at the ends of each range,
    and words that decode. -/
theorem witness_EngineDecodeOrder :
    (∀ w : Word, (busyState w).eng = .busy w) ∧
    firstWordError 0x6 = some .illegalOp ∧ firstWordError 0xF = some .illegalOp ∧
    firstWordError 0x10 = some .noncanonImm ∧ firstWordError 0x105 = some .noncanonImm ∧
    firstWordError 0x81 = some .rsvdBits ∧ firstWordError 0x801 = some .rsvdBits ∧
    firstWordError 0x80000062 = some .rsvdBits ∧ firstWordError 0x71 = some .illegalScheme ∧
    firstWordError 0x101 = some .modeNotZero ∧ firstWordError 0x702 = some .modeNotZero ∧
    firstWordError 0x603 = some .illegalMode ∧ firstWordError 0x704 = some .illegalMode ∧
    firstWordError 0x513 = some .gcmScheme ∧ firstWordError 0x564 = some .gcmScheme ∧
    firstWordError 0x1 = none ∧ firstWordError 0x62 = none ∧ firstWordError 0x463 = none ∧
    firstWordError 0x504 = none := by
  refine ⟨fun _ => rfl, ?_⟩
  decide

theorem witness_StepRunsDecodedCommand :
    (decode 0x00000061 = .ok .padPkcs7 ∧ Instr.padPkcs7 ≠ .nop ∧ Instr.padPkcs7 ≠ .clrstat ∧
      (busyState 0x61).eng = .busy 0x61 ∧ (busyState 0x61).schedule = []) ∧
    { busyState 0x61 with schedule := [.engine] }.schedule = [.engine] ∧
    decode 0x00000005 = .ok .clrstat ∧ idleState.eng = .idle ∧ idleState.schedule = [] := by
  decide

theorem witness_NopWritesCmdLast :
    idleState.eng = .idle ∧ (busyState 0x61).eng = .busy 0x61 ∧
    (0x00000010 : Word).toNat % 16 = 0 ∧ (0x00000010 : Word) ≠ 0x00000000 := by decide

theorem witness_ClrstatClearsStatus :
    idleState.eng = .idle ∧ (busyState 0x61).eng = .busy 0x61 ∧
    (0x00000105 : Word).toNat % 16 = 5 ∧ (0x00000105 : Word) ≠ 0x00000005 := by decide

/-- Every outcome of a PAD command before its pad step, at the ends of each range. -/
theorem witness_PadStatements :
    (∀ sch ∈ [Scheme.none, .zero, .x923, .iso9797, .iso10126, .pkcs7],
      padRefusal sch { idleState with inLen := 4096, blksz := 1 } = none ∧
      padRefusal sch { idleState with inLen := 0, blksz := 256 } = none ∧
      padRefusal sch { idleState with inLen := 4097 } = some .inLenRange ∧
      padRefusal sch { idleState with blksz := 0 } = some .blkszRange ∧
      padRefusal sch { idleState with blksz := 257 } = some .blkszRange) ∧
    padRefusal .pkcs5 { idleState with inLen := 4096, blksz := 8 } = none ∧
    padRefusal .pkcs5 { idleState with inLen := 4097 } = some .inLenRange ∧
    padRefusal .pkcs5 { idleState with blksz := 0 } = some .blkszRange ∧
    padRefusal .pkcs5 { idleState with blksz := 257 } = some .blkszRange ∧
    padRefusal .pkcs5 { idleState with blksz := 7 } = some .pkcs5Bs ∧
    padRefusal .pkcs5 { idleState with blksz := 9 } = some .pkcs5Bs := by decide

/-- The cases of PadIso10126AppendsRandomAndCount: n = 1, and n = 2 with either answer. -/
theorem witness_PadIso10126AppendsRandomAndCount :
    8 - { idleState with inLen := 7 }.inLen.toNat % 8 = 1 ∧
    8 - { idleState with inLen := 6 }.inLen.toNat % 8 = 2 ∧
    (randomBytes 1 (withRandom .fail idleState)).1 = none ∧
    (randomBytes 1 (withRandom (.bytes [0x5A]) idleState)).1 = some [0x5A] ∧
    (withRandom .fail idleState).rng = [.fail] ∧
    (withRandom (.bytes [0x5A]) idleState).rng = [.bytes [0x5A]] := by decide

/-- Every outcome of an UNPAD command, the four cases of a count scheme and the two of ISO 9797. -/
theorem witness_UnpadStatements :
    unpadRefusal { idleState with inLen := 4096 } = none ∧
    unpadRefusal { idleState with inLen := 4097 } = some .inLenRange ∧
    (loaded 0 [] [] noPort).inLen.toNat = 0 ∧
    ((loaded 0 [0x01, 0x00] [] noPort).inByte 1).toNat = 0 ∧
    ((loaded 0 [0x01, 0x03] [] noPort).inByte 1).toNat > 2 ∧
    ((loaded 0 [0x01, 0x02] [] noPort).inByte 1).toNat = 2 ∧
    (loaded 0 [0x00] [] noPort).inByte 0 = 0x00 ∧ (loaded 0 [0x80] [] noPort).inByte 0 ≠ 0x00 := by
  decide +kernel

/-- Every outcome of an ENC command before its pad step, at the ends of each range. -/
theorem witness_EncStatements :
    let s := { idleState with inLen := 8 }
    let port (bs : Nat) := { s.params with cipher := { s.params.cipher with bs := bs } }
    (∀ m ∈ [ChainMode.ecb, .cbc, .cfb, .ofb, .ctr],
      encRefusal m .none s = none ∧ encRefusal m .pkcs7 { s with inLen := 4096 } = none ∧
      encRefusal m .pkcs7 { s with params := port 1, ivLen := 1 } = none ∧
      encRefusal m .pkcs7 { s with params := port 256, ivLen := 256 } = none ∧
      encRefusal m .pkcs5 { s with params := port 8, ivLen := 8 } = none ∧
      encRefusal m .none (loaded 8 text iv4 { noPort with status := .failed 0x2A }) =
        some .cipherFailed ∧
      encRefusal m .none { s with inLen := 4097 } = some .inLenRange ∧
      encRefusal m .none { s with params := port 0 } = some .blkszRange ∧
      encRefusal m .none { s with params := port 257 } = some .blkszRange ∧
      encRefusal m .pkcs5 s = some .pkcs5Bs) ∧
    (∀ m ∈ [ChainMode.cbc, .cfb, .ofb, .ctr],
      encRefusal m .zero { s with ivLen := 3 } = some .ivLen ∧
      encRefusal m .zero { s with ivLen := 5 } = some .ivLen) ∧
    encRefusal .ecb .zero { s with ivLen := 300 } = none ∧
    (∀ m ∈ [ChainMode.ecb, .cbc],
      encRefusal m .none { s with inLen := 9 } = some .notBlockMultiple ∧
      encRefusal m .zero { s with inLen := 9 } = none) ∧
    (fillBytes .iso10126 8 4 (withRandom .fail s)).1 = none := by decide

/-- Every outcome of a DEC command, at the ends of each range. -/
theorem witness_DecStatements :
    let s := { idleState with inLen := 8 }
    let port (bs : Nat) := { s.params with cipher := { s.params.cipher with bs := bs } }
    (∀ m ∈ [ChainMode.ecb, .cbc, .cfb, .ofb, .ctr],
      decRefusal m .none s = none ∧ decRefusal m .pkcs7 { s with inLen := 4096 } = none ∧
      decRefusal m .pkcs7 { s with params := port 1, ivLen := 1 } = none ∧
      decRefusal m .pkcs7 { s with params := port 256, ivLen := 256, inLen := 256 } = none ∧
      decRefusal m .pkcs5 { s with params := port 8, ivLen := 8 } = none ∧
      decRefusal m .none (loaded 8 text iv4 { noPort with status := .failed 0x2A }) =
        some .cipherFailed ∧
      decRefusal m .none { s with inLen := 4097 } = some .inLenRange ∧
      decRefusal m .none { s with params := port 0 } = some .blkszRange ∧
      decRefusal m .none { s with params := port 257 } = some .blkszRange ∧
      decRefusal m .pkcs5 s = some .pkcs5Bs) ∧
    (∀ m ∈ [ChainMode.cbc, .cfb, .ofb, .ctr],
      decRefusal m .zero { s with ivLen := 3 } = some .ivLen ∧
      decRefusal m .zero { s with ivLen := 5 } = some .ivLen) ∧
    decRefusal .ecb .zero { s with ivLen := 300 } = none ∧
    (∀ m ∈ [ChainMode.ecb, .cbc],
      decRefusal m .zero { s with inLen := 9 } = some .notBlockMultiple) ∧
    (∀ m ∈ [ChainMode.cfb, .ofb, .ctr], decRefusal m .zero { s with inLen := 9 } = none) := by
  decide

/-- Every outcome of the GCM checks, and DEC.GCM just under and at the shortest input. -/
theorem witness_GcmStatements :
    let s := loaded 16 sealed (List.replicate 12 0x00) aesZero
    let port (bs : Nat) := { s.params with cipher := { s.params.cipher with bs := bs } }
    gcmRefusal s = none ∧ gcmRefusal { s with inLen := 4096 } = none ∧
    gcmRefusal (loaded 16 [] [] { aesZero with status := .failed 0x00 }) = some .cipherFailed ∧
    gcmRefusal { s with inLen := 4097 } = some .inLenRange ∧
    gcmRefusal { s with params := port 0 } = some .blkszRange ∧
    gcmRefusal { s with params := port 257 } = some .blkszRange ∧
    gcmRefusal { s with params := port 15 } = some .gcmBs ∧
    gcmRefusal { s with params := port 17 } = some .gcmBs ∧
    gcmRefusal { s with ivLen := 11 } = some .nonceLen ∧
    gcmRefusal { s with ivLen := 13 } = some .nonceLen ∧
    { s with inLen := 15 }.inLen.toNat < 16 ∧ ¬{ s with inLen := 16 }.inLen.toNat < 16 := by
  decide

/-- DEC.GCM with the right tag and with a wrong one. -/
theorem witness_DecGcmOpensData :
    gcmTag aesZero (List.replicate 12 0x00) (sealed.take 16) = sealed.drop 16 ∧
    gcmTag aesZero (List.replicate 12 0x00) (sealed.take 16) ≠ List.replicate 16 0x00 := by
  decide +kernel

theorem witness_GfProductAndGhash :
    (sealed.take 16).length = 16 ∧ sealed.length = 16 * 2 ∧ ([] : Bytes).length = 16 * 0 := by
        decide

theorem witness_CommandAcceptance :
    (0x00000061 : Word) ≠ 0x00000000 ∧ (0x00000061 : Word) ≠ 0x00000005 ∧ idleState.eng = .idle ∧
    (busyState 0x163).eng = .busy 0x163 := by decide

/-- Offsets of every row of BusyAccessRules, at the ends of each range. -/
theorem witness_BusyAccessRules :
    (busyState 0x61).eng = .busy 0x61 ∧ (busyState 0x61).params.inCap = 4096 ∧
    (∀ off ∈ [0x00C, 0x014, 0x020, 0x028, 0x100, 0x1FC, 0x1000, 0x1FFC], off % 4 = 0 ∧
      (off = 0x00C ∨ off = 0x014 ∨ off = 0x020 ∨ off = 0x028 ∨ (0x100 ≤ off ∧ off < 0x200) ∨
        (0x1000 ≤ off ∧ off < 0x1000 + 4096))) ∧
    (∀ off ∈ [0x000, 0x004, 0x018, 0x01C, 0x024, 0x02C, 0x030, 0x0FC, 0x200, 0xFFC, 0x2000, 0x7FFC,
        0x8000, 0xFFFC], off % 4 = 0 ∧ off < 0x10000 ∧ off ≠ 0x008 ∧ off ≠ 0x010 ∧
      ¬(off = 0x00C ∨ off = 0x014 ∨ off = 0x020 ∨ off = 0x028 ∨ (0x100 ≤ off ∧ off < 0x200) ∨
        (0x1000 ≤ off ∧ off < 0x1000 + 4096))) ∧
    (∀ off ∈ [0x018, 0x024, 0x02C, 0x8000, 0xFFFC], off % 4 = 0 ∧ off < 0x10000 ∧
      (off = 0x018 ∨ off = 0x024 ∨ off = 0x02C ∨ 0x8000 ≤ off)) ∧
    (∀ off ∈ [0x000, 0x010, 0x028, 0x030, 0x100, 0x1000, 0x7FFC], off % 4 = 0 ∧
      ¬(off = 0x018 ∨ off = 0x024 ∨ off = 0x02C ∨ 0x8000 ≤ off)) := by decide

/-- A narrow, a wide and a misaligned access, at the ends of the window. -/
theorem witness_BusErrorOnBadAccess :
    State.reset.params.base = 0 ∧
    (∀ a ∈ [(0x0000, 16), (0xFFFC, 64), (0x0001, 32), (0xFFFF, 32)],
      0 ≤ a.1 ∧ a.1 < 0 + 0x10000 ∧ (a.2 ≠ 32 ∨ (a.1 - 0) % 4 ≠ 0)) := by decide

/-- The first and the last word of each buffer. -/
theorem witness_LittleEndianBuffers :
    idleState.eng = .idle ∧ idleState.params.inCap = 4096 ∧ idleState.params.outCap = 4608 ∧
    (∀ p ∈ [(0, 256), (63, 256), (0, 4096), (1023, 4096), (0, 4608), (1151, 4608)],
      4 * p.1 < p.2) := by decide

/-- The first and the last word of each reserved range. -/
theorem witness_ReservedReadsZeroIgnoresWrites :
    idleState.eng = .idle ∧ (busyState 0x61).eng ≠ .idle ∧
    ∀ off ∈ [0x030, 0x0FC, 0x200, 0xFFC, 0x2000, 0x7FFC, 0x9200, 0xFFFC], off % 4 = 0 ∧
      ((0x030 ≤ off ∧ off < 0x100) ∨ (0x200 ≤ off ∧ off < 0x1000) ∨
        (0x1000 + idleState.params.inCap ≤ off ∧ off < 0x8000) ∨
        (0x8000 + idleState.params.outCap ≤ off ∧ off < 0x10000)) := by decide

theorem witness_ReadsFollowTheMap :
    idleState.eng = .idle ∧
    (∀ off ∈ [0x000, 0x02C, 0x100, 0x1FC, 0x1000, 0x1FFC, 0x2000, 0x8000, 0x91FC, 0x9200, 0xFFFC],
      off % 4 = 0 ∧ off < 0x10000) ∧
    (∀ off ∈ [0x000, 0x014, 0x01C, 0x020, 0x028, 0x030, 0x7FFC], off % 4 = 0 ∧
      ¬(off = 0x018 ∨ off = 0x024 ∨ off = 0x02C ∨ 0x8000 ≤ off)) ∧
    (∀ off ∈ [0x100, 0x1FC, 0x1000, 0x1FFC, 0x8000, 0x91FC], off % 4 = 0 ∧
      ((0x100 ≤ off ∧ off < 0x200) ∨ (0x1000 ≤ off ∧ off < 0x1000 + idleState.params.inCap) ∨
        (0x8000 ≤ off ∧ off < 0x8000 + idleState.params.outCap))) ∧
    ∀ off ∈ [0x030, 0x0FC, 0x200, 0xFFC, 0x2000, 0x7FFC, 0x9200, 0xFFFC], off % 4 = 0 ∧
      ((0x030 ≤ off ∧ off < 0x100) ∨ (0x200 ≤ off ∧ off < 0x1000) ∨
        (0x1000 + idleState.params.inCap ≤ off ∧ off < 0x8000) ∨
        0x8000 + idleState.params.outCap ≤ off) := by decide

theorem witness_ControlRegister :
    (0xFFFFFFFE : Word).getLsbD 0 = false ∧ (0x00000000 : Word).getLsbD 0 = false ∧
    (0x00000001 : Word).getLsbD 0 = true ∧ (0xFFFFFFFF : Word).getLsbD 0 = true := by decide

theorem witness_StatusRegister :
    (∀ n ∈ [1, 2, 3, 4], (0x0000001E : Word).getLsbD n = true) ∧
    (∀ n ∈ [1, 2, 3, 4], (0xFFFFFFE1 : Word).getLsbD n = false) := by decide

theorem witness_OperandRegistersExact : idleState.eng = .idle := rfl

theorem witness_SoftReset :
    (0x00000001 : Word).getLsbD 0 = true ∧ (0xFFFFFFFF : Word).getLsbD 0 = true ∧
    (busyState 0x61).eng = .busy 0x61 ∧ (0xFFFFFFFE : Word).getLsbD 0 = false ∧
    ∀ off ∈ [0x000, 0x00C, 0x010, 0xFFFC], off % 4 = 0 ∧ off < 0x10000 ∧ off ≠ 0x008 := by decide

/-- A state with a write to come, after a reset: its invariant, and its step. -/
theorem witness_StepKeepsInv :
    Inv (State.reset.nextWrite 0x014 0x00000008) ∧
    step (State.reset.nextWrite 0x014 0x00000008) = .next { State.reset with blksz := 8 } := by
  refine ⟨?_, rfl⟩
  exact
    { canonical := rfl
      placed := fun c hc => absurd hc List.not_mem_nil
      oneCompletion := by decide
      malfOnSuccess := fun _ => rfl
      latched := fun _ hw => absurd hw (by simp [State.nextWrite, State.reset])
      errLegal := .inl rfl
      outFits := by decide
      outTail := fun j _ hj => by
        have h1 : ¬(ivbBase ≤ outbBase + j ∧ outbBase + j < ivbEnd) := by
          simp only [ivbEnd, outbBase]; omega
        simp [State.outByte, State.byteAt, State.nextWrite, State.reset, Memory.read, unlisted,
            h1] }

/-- A run of a PAD command: operands, CMD, the engine's step, a read of its result. -/
def padRun : State :=
  { State.reset with
    schedule := [.write 0x014 32 8, .write 0x1000 32 0x44434241, .write 0x020 32 4,
      .write 0x00C 32 0x61, .engine, .read 0x8000 32] }

theorem witness_SafeScheduleRunsToFinal : SafeSchedule padRun ∧ SafeSchedule State.reset := by
  constructor
  · intro e he
    simp only [padRun, List.mem_cons, List.not_mem_nil, or_false] at he
    rcases he with rfl | rfl | rfl | rfl | rfl | rfl <;> simp [Event.legal, Params.base, padRun,
      State.reset, Params.atReset]
  · exact fun e he => absurd he List.not_mem_nil

/-- A state with legal events to come, and one with none. -/
theorem witness_StepKeepsSafeSchedule : SafeSchedule padRun ∧ SafeSchedule State.reset :=
  witness_SafeScheduleRunsToFinal

theorem witness_ResultsStayReadable :
    let s := { idleState with
      schedule := [.read 0x8000 32, .write 0x014 32 8, .write 0x00C 32 0, .write 0x008 32 6,
        .engine] }
    s.eng = .idle ∧ ∀ e ∈ s.schedule, e.quiet s.params := by
  refine ⟨rfl, ?_⟩
  intro e he
  simp only [List.mem_cons, List.not_mem_nil, or_false] at he
  rcases he with rfl | rfl | rfl | rfl | rfl <;>
    simp [Event.quiet, Event.legal, Params.base, idleState, loaded, State.reset, Params.atReset]

/-- A length of each scheme's random bytes, at the ends of the block sizes. -/
theorem witness_PadLengthLaw :
    ([] : Bytes).length = fillCount .zero 10 1 ∧ ([] : Bytes).length = fillCount .pkcs5 0 8 ∧
    (List.replicate 255 (0x5A : Byte)).length = fillCount .iso10126 0 256 ∧
    ([] : Bytes).length = fillCount .iso10126 7 8 := by decide +kernel

/-- The cases of 41_padding.md R141, at the ends of their ranges. -/
theorem witness_UnpadInvertsPad :
    Recoverable .none [] 256 ∧ Recoverable .iso9797 text 256 ∧ Recoverable .x923 [] 255 ∧
    Recoverable .iso10126 text 256 ∧ Recoverable .pkcs7 text 1 ∧ Recoverable .pkcs5 [] 8 ∧
    Recoverable .zero [] 4 ∧ Recoverable .zero [0x00, 0x01] 4 := by
  simp [Recoverable, text]

theorem witness_ZeroPaddingLossy :
    ([] : Bytes).getLast? ≠ some 0x00 ∧ text.getLast? ≠ some 0x00 := by decide

/-- Block size 256 with a length that is a multiple of it and one that is not,
    and block size 255. -/
theorem witness_BlockSize256 :
    ([] : Bytes).length % 256 = 0 ∧ text.length % 256 ≠ 0 ∧
    (List.replicate 255 (0x5A : Byte)).length = fillCount .iso10126 0 256 ∧
    ([] : Bytes).length = fillCount .x923 10 255 := by decide +kernel

theorem witness_StreamSymmetry : 1 ≤ noPort.bs ∧ iv4.length = noPort.bs := by decide

/-- The state of vector M4. -/
def encSource : State := loaded 16 text iv4 (toy4 [[0xF4, 0xD3, 0xD7, 0xCE], [0xB3, 0xBB, 0x9A,
    0x9F], [0xD4, 0xFF, 0x9E, 0xB5]])

/-- The state of vector M5, whose input is the output of M4. -/
def decSource : State := loaded 16 [0xD2, 0xD5, 0xCD, 0xF0, 0xBA, 0x98, 0x9C, 0xB7, 0xFE, 0x9C,
    0xB6, 0xD0] iv4 encSource.params.cipher

theorem witness_EncDecRoundTrip :
    encRefusal .cbc .pkcs7 encSource = none ∧
    Recoverable .pkcs7 (dataOperand encSource) encSource.params.cipher.bs ∧
    exec (encInstr .cbc .pkcs7) encSource = .next (runEnc .cbc .pkcs7 encSource) ∧
    (runEnc .cbc .pkcs7 encSource).fail = false ∧
    decSource.params = encSource.params ∧ decSource.ivLen = encSource.ivLen ∧
    ivOperand encSource.params.cipher.bs decSource =
      ivOperand encSource.params.cipher.bs encSource ∧
    decSource.inLen = (runEnc .cbc .pkcs7 encSource).outLen ∧
    decSource.inLen.toNat ≤ encSource.params.inCap ∧
    ∀ j, j < decSource.inLen.toNat →
      decSource.inByte j = (runEnc .cbc .pkcs7 encSource).outByte j := by
  refine ⟨by decide +kernel, .inl (by decide +kernel), rfl, ?_⟩
  decide +kernel

/-- The state of vector G2. -/
def sealSource : State := loaded 16 (List.replicate 16 0x00) (List.replicate 12 0x00) aesZero

/-- The state of vector G3, whose input is the output of G2. -/
def openSource : State := loaded 16 sealed (List.replicate 12 0x00) aesZero

theorem witness_GcmRoundTrip :
    gcmRefusal sealSource = none ∧ exec .encGcm sealSource = .next (runEncGcm sealSource) ∧
    openSource.params = sealSource.params ∧ openSource.ivLen = sealSource.ivLen ∧
    ivOperand 12 openSource = ivOperand 12 sealSource ∧
    openSource.inLen = (runEncGcm sealSource).outLen ∧
    openSource.inLen.toNat ≤ sealSource.params.inCap ∧
    ∀ j, j < openSource.inLen.toNat →
      openSource.inByte j = (runEncGcm sealSource).outByte j := by
  refine ⟨by decide +kernel, rfl, ?_⟩
  decide +kernel

theorem witness_EncOutputLength :
    let s := { idleState with inLen := 8 }
    encRefusal .cfb .pkcs7 s = none ∧ (fillBytes .pkcs7 8 4 s).1 = some [] ∧
    (fillBytes .iso10126 6 4 (withRandom (.bytes [0x5A]) s)).1 = some [0x5A] := by decide

/-- The identity is a permutation of the blocks of any size. -/
theorem witness_CipherPortIsAnyPermutation (x : Bytes) (h : x.length = 16) :
    (id x).length = 16 ∧ id (id x) = x := ⟨h, rfl⟩

end Sys2Proof.Machine.Tests
end

section
/-! The cipher port of 00_scope.md R11: D inverts E, and every permutation of the blocks is the E of
some port. A permutation of a finite type is a product of exchanges, and a port is a list of them. -/

namespace Sys2Proof.Machine

/-! ### D inverts E -/

/-- Exchanges made in order and then undone, the last one first. -/
theorem foldr_swaps_foldl_swaps (l : List (Bytes × Bytes)) (b : Bytes) :
    l.foldr (fun p x => swapBlocks p.1 p.2 x) (l.foldl (fun x p => swapBlocks p.1 p.2 x) b) = b := by
  induction l generalizing b with
  | nil => rfl
  | cons p l ih => rw [List.foldl_cons, List.foldr_cons, ih, swapBlocks_involutive]

/-- Exchanges undone, the last one first, and then made again in order. -/
theorem foldl_swaps_foldr_swaps (l : List (Bytes × Bytes)) (b : Bytes) :
    l.foldl (fun x p => swapBlocks p.1 p.2 x) (l.foldr (fun p x => swapBlocks p.1 p.2 x) b) = b := by
  induction l with
  | nil => rfl
  | cons p l ih => rw [List.foldr_cons, List.foldl_cons, swapBlocks_involutive, ih]

@[simp] theorem cipherD_cipherE (c : CipherPort) (b : Bytes) : cipherD c (cipherE c b) = b :=
  foldr_swaps_foldl_swaps (blockSwaps c) b

@[simp] theorem cipherE_cipherD (c : CipherPort) (b : Bytes) : cipherE c (cipherD c b) = b :=
  foldl_swaps_foldr_swaps (blockSwaps c) b

/-! ### Every permutation of the blocks is some port's E -/

theorem cipherE_nil (bs : Nat) (status : CipherStatus) (b : Bytes) :
    cipherE ⟨bs, status, []⟩ b = b := rfl

/-- A port's first exchange of two blocks is made before the others. -/
theorem cipherE_cons {bs : Nat} {x y : Bytes} (hx : x.length = bs) (hy : y.length = bs)
    (status : CipherStatus) (l : List (Bytes × Bytes)) (b : Bytes) :
    cipherE ⟨bs, status, (x, y) :: l⟩ b = cipherE ⟨bs, status, l⟩ (swapBlocks x y b) := by
  simp [cipherE, blockSwaps, hx, hy]

/-- The model's exchange is Mathlib's transposition. -/
theorem swapBlocks_eq_swap (x y b : Bytes) : swapBlocks x y b = Equiv.swap x y b :=
  (Equiv.swap_apply_def x y b).symm

/-- The induction is over the permutation as a product of transpositions, each of which becomes the
first exchange of the port. -/
theorem exists_port_of_perm {bs : Nat} (status : CipherStatus)
    (f : Equiv.Perm (List.Vector Byte bs)) :
    ∃ l, ∀ b : List.Vector Byte bs, cipherE ⟨bs, status, l⟩ b.toList = (f b).toList := by
  induction f using Equiv.Perm.swap_induction_on' with
  | one => exact ⟨[], fun b => cipherE_nil bs status b.toList⟩
  | mul_swap f x y _ ih =>
    obtain ⟨l, hl⟩ := ih
    refine ⟨(x.toList, y.toList) :: l, fun b => ?_⟩
    rw [cipherE_cons x.toList_length y.toList_length, swapBlocks_eq_swap,
      List.Vector.toList_injective.swap_apply, hl, Equiv.Perm.mul_apply]

/-- A function that keeps the length of blocks, on the finite type of the blocks. -/
def onBlocks {bs : Nat} (E : Bytes → Bytes) (hE : ∀ x, x.length = bs → (E x).length = bs)
    (b : List.Vector Byte bs) : List.Vector Byte bs := ⟨E b.toList, hE b.toList b.toList_length⟩

@[simp] theorem onBlocks_toList {bs : Nat} (E : Bytes → Bytes)
    (hE : ∀ x, x.length = bs → (E x).length = bs) (b : List.Vector Byte bs) :
    (onBlocks E hE b).toList = E b.toList := rfl

theorem onBlocks_injective {bs : Nat} {E D : Bytes → Bytes}
    (hE : ∀ x, x.length = bs → (E x).length = bs) (hD : ∀ x, x.length = bs → D (E x) = x) :
    Function.Injective (onBlocks E hE) := fun a b hab => List.Vector.toList_injective <|
  calc a.toList = D (E a.toList) := (hD _ a.toList_length).symm
    _ = D (E b.toList) := congrArg (fun v => D v.toList) hab
    _ = b.toList := hD _ b.toList_length

/-- The blocks are finitely many, so a block function that some D undoes permutes them. -/
theorem exists_perm_of_leftInverse {bs : Nat} {E D : Bytes → Bytes}
    (hE : ∀ x, x.length = bs → (E x).length = bs) (hD : ∀ x, x.length = bs → D (E x) = x) :
    ∃ f : Equiv.Perm (List.Vector Byte bs), ∀ b, (f b).toList = E b.toList :=
  ⟨Equiv.ofBijective (onBlocks E hE) (Finite.injective_iff_bijective.1 (onBlocks_injective hE hD)),
    onBlocks_toList E hE⟩

/-- The D of a port is fixed by its E: every block y is E(x) for a block x. -/
theorem cipherD_eq_of_cipherE_eq {c : CipherPort} {E D : Bytes → Bytes}
    (hD : ∀ x, x.length = c.bs → D (E x) = x) (hE : ∀ x, x.length = c.bs → cipherE c x = E x)
    {y : Bytes} (hy : y.length = c.bs) : cipherD c y = D y := by
  have hlen : (cipherD c y).length = c.bs := (cipherD_length c y).trans hy
  calc cipherD c y = D (E (cipherD c y)) := (hD _ hlen).symm
    _ = D y := by rw [← hE _ hlen, cipherE_cipherD]

/-- Settles O59: D undoes E's exchanges, and a block function with an inverse is a permutation of the
finitely many blocks, so a product of exchanges. -/
theorem cipherPortIsAnyPermutation : Obligations.CipherPortIsAnyPermutation := by
  refine ⟨fun c x hx => ⟨?_, ?_, cipherD_cipherE c x, cipherE_cipherD c x⟩,
    fun bs status E D h => ?_⟩
  · rw [cipherE_length, hx]
  · rw [cipherD_length, hx]
  · have hlen : ∀ x, x.length = bs → (E x).length = bs := fun x hx => (h x hx).1
    have hD : ∀ x, x.length = bs → D (E x) = x := fun x hx => (h x hx).2
    obtain ⟨f, hf⟩ := exists_perm_of_leftInverse hlen hD
    obtain ⟨l, hl⟩ := exists_port_of_perm status f
    have hE : ∀ x, x.length = bs → cipherE ⟨bs, status, l⟩ x = E x := fun x hx =>
      (hl ⟨x, hx⟩).trans (hf ⟨x, hx⟩)
    exact ⟨⟨bs, status, l⟩, rfl, rfl, fun x hx =>
      ⟨hE x hx, cipherD_eq_of_cipherE_eq hD hE hx⟩⟩

end Sys2Proof.Machine
end

section
/-! The invariant (10_state.md R25, R27, R33, R34; 70_reset_and_hazards.md R301): what each effect
of a step does to it. An effect either sets the output, or writes IVB or INB, or leaves memory
alone. -/

namespace Sys2Proof.Machine

theorem eng_idle_of_not_isBusy {s : State} (h : s.isBusy = false) : s.eng = .idle := by
  unfold State.isBusy at h
  split at h
  · assumption
  · cases h

/-- An idle engine has no latched word, so the invariant asks nothing of CMD_LAST. -/
theorem latched_of_idle {s : State} (h : s.eng = .idle) (w : Word) (hw : s.eng = .busy w) :
    s.cmdLast = w ∧ decodeImmediate w = none ∧ s.done = false ∧ s.fail = false ∧
      s.malf = false := by
  rw [h] at hw
  cases hw

/-! ### Effects on fields that the invariant does not name -/

/-- CTRL, WERR, the operand registers, the bus response, the schedule and the oracles are free. -/
theorem Inv.with_free_fields {s : State} (h : Inv s) (ieDone ieFail werr : Bool)
    (blksz inLen ivLen : Word) (schedule : List Event) (response : Option Word)
    (rng : List RngAnswer) (draws : Nat) :
    Inv { s with
      ieDone := ieDone, ieFail := ieFail, werr := werr, blksz := blksz, inLen := inLen,
      ivLen := ivLen, schedule := schedule, response := response, rng := rng, draws := draws } :=
  { h with }

theorem Inv.busRead {s : State} (h : Inv s) (off : Nat) : Inv (busRead off s) := by
  unfold Machine.busRead
  split
  · exact h.with_free_fields ..
  · exact h.with_free_fields ..

/-! ### Effects on the flags -/

/-- W1C only clears flags, so none of the flags' exclusions is lost (10_state.md R25). -/
theorem Inv.writeStatus {s : State} (h : Inv s) (v : Word) : Inv (writeStatus v s) :=
  { h with
    oneCompletion := fun ⟨hd, hf⟩ =>
      h.oneCompletion ⟨Bool.and_elim_left hd, Bool.and_elim_left hf⟩
    malfOnSuccess := fun hm => by
      have hf := h.malfOnSuccess (Bool.and_elim_left hm)
      simp [hf]
    latched := fun w hw => by
      obtain ⟨hc, hd, hdone, hfail, hmalf⟩ := h.latched w hw
      simp [hc, hd, hdone, hfail, hmalf] }

theorem Inv.nop {s : State} (h : Inv s) (hi : s.eng = .idle) :
    Inv { s with cmdLast := 0x00000000 } :=
  { h with latched := latched_of_idle hi }

theorem Inv.clrstat {s : State} (h : Inv s) (hi : s.eng = .idle) :
    Inv (clearStatus { s with cmdLast := 0x00000005 }) :=
  { h with
    oneCompletion := by simp
    malfOnSuccess := by simp
    latched := latched_of_idle hi
    errLegal := .inl rfl }

theorem Inv.accept {s : State} (h : Inv s) {w : Word} (hw : decodeImmediate w = none) :
    Inv (accept w s) :=
  { h with
    oneCompletion := by simp
    malfOnSuccess := by simp
    latched := fun v hv => by
      obtain rfl : w = v := by simpa using hv
      exact ⟨rfl, hw, rfl, rfl, rfl⟩ }

/-! ### Effects on memory -/

/-- A stored word lists only bytes of the aligned word. -/
theorem mem_writeWord {m : Memory} {a : Nat} {v : Word} {c : Host.Cell} (h : c ∈ m.writeWord a v) :
    (a ≤ c.1 ∧ c.1 < a + 4) ∨ c ∈ m :=
  mem_writeBytes _ m a c h

theorem read_writeWord_of_outside (m : Memory) (a : Nat) (v : Word) {b : Nat}
    (h : ¬(a ≤ b ∧ b < a + 4)) : (m.writeWord a v).read b = m.read b := by
  unfold Memory.writeWord
  rw [read_writeBytes]
  exact if_neg h

/-- The input buffer ends before the output window (00_scope.md R10). -/
theorem inbEnd_le_outbBase (p : Params) : inbEnd p ≤ outbBase := by
  have := inCap_le p
  unfold inbEnd inbBase outbBase
  omega

theorem inbEnd_mod_four (p : Params) : inbEnd p % 4 = 0 := by
  unfold inbEnd inbBase Params.inCap
  omega

/-- An aligned word that begins in IVB or INB ends there, so OUTB is not touched. -/
theorem Inv.writeWord {s : State} (h : Inv s) {off : Nat} (v : Word) (h4 : off % 4 = 0)
    (hoff : (ivbBase ≤ off ∧ off < ivbEnd) ∨ (inbBase ≤ off ∧ off < inbEnd s.params)) :
    Inv { s with mem := s.mem.writeWord off v } := by
  have hend := inbEnd_mod_four s.params
  have hout := inbEnd_le_outbBase s.params
  have hin : (ivbBase ≤ off ∧ off + 4 ≤ ivbEnd) ∨ (inbBase ≤ off ∧ off + 4 ≤ inbEnd s.params) := by
    unfold ivbEnd at hoff ⊢
    omega
  exact
    { h with
      canonical := wf_writeWord _ _ _ h.canonical
      placed := fun c hc => by
        rcases mem_writeWord hc with hc | hc
        · show _ ∨ (_ ∧ c.1 < inbEnd s.params) ∨ _
          omega
        · exact h.placed c hc
      outTail := fun j hj hcap => by
        have hne : ¬(off ≤ outbBase + j ∧ outbBase + j < off + 4) := by
          have : ivbEnd ≤ outbBase := by decide
          omega
        calc State.outByte { s with mem := s.mem.writeWord off v } j
            = s.outByte j := byteAt_of_read (read_writeWord_of_outside _ _ _ hne) rfl
          _ = 0x00 := h.outTail j hj hcap }

/-- An operation that sets the output to `Y` and leaves the engine idle keeps the invariant when its
flags and ERR are legal: both completions and the soft reset. -/
theorem Inv.of_setOutput {s t : State} (h : Inv s) {Y : Bytes} (hp : t.params = s.params)
    (hm : t.mem = s.mem.setOutput s.params Y) (hY : Y.length ≤ s.params.outCap)
    (hl : t.outLen.toNat = Y.length) (hi : t.eng = .idle)
    (hone : ¬(t.done = true ∧ t.fail = true)) (hmalf : t.malf = true → t.fail = false)
    (herr : t.err = 0x00000000 ∨ ∃ e, t.err = errWord e) : Inv t where
  canonical := by rw [hm]; exact wf_setOutput _ _ _ h.canonical
  placed := fun c hc => by
    rw [hm] at hc
    rw [hp]
    rcases mem_setOutput _ _ _ _ hc with hc | hc
    · unfold outbEnd
      omega
    · exact h.placed c hc
  oneCompletion := hone
  malfOnSuccess := hmalf
  latched := latched_of_idle hi
  errLegal := herr
  outFits := by rw [hl, hp]; exact hY
  outTail := fun j hj hcap => by
    rw [hp] at hcap
    rw [hl] at hj
    rw [outByte_setOutput t s.mem s.params Y hm j hcap, List.getD_eq_default _ _ hj]

theorem Inv.commit {s : State} (h : Inv s) {Y : Bytes} {k : Nat} {mal : Bool}
    (hY : Y.length ≤ s.params.outCap) (hk : k < 2 ^ 32) : Inv (commit Y k mal s) :=
  h.of_setOutput rfl rfl hY (commit_completed s Y k mal hY hk).outLen rfl (by simp) (by simp)
    (.inl rfl)

theorem Inv.raiseError {s : State} (h : Inv s) (e : Err) : Inv (raiseError e s) :=
  h.of_setOutput (Y := []) rfl rfl (Nat.zero_le _) rfl rfl (by simp) (by simp) (.inr ⟨e, rfl⟩)

theorem Inv.softReset {s : State} (h : Inv s) : Inv (softReset s) :=
  h.of_setOutput (Y := []) rfl rfl (Nat.zero_le _) rfl rfl (by simp) (by simp) (.inl rfl)

/-- A power-on reset needs no invariant before it: memory lists nothing, and an unlisted byte of the
output window is 0 (10_state.md R38). -/
theorem inv_powerOnReset (s : State) : Inv (powerOnReset s) where
  canonical := rfl
  placed := fun _ hc => absurd hc List.not_mem_nil
  oneCompletion := by simp
  malfOnSuccess := by simp
  latched := latched_of_idle rfl
  errLegal := .inl rfl
  outFits := Nat.zero_le _
  outTail := fun j _ _ => by
    have hu : unlisted (outbBase + j) = some 0x00 := by
      unfold unlisted ivbBase ivbEnd inbBase outbBase
      exact if_neg (by omega)
    unfold State.outByte State.byteAt
    rw [powerOnReset_mem, read_nil, hu]

theorem Inv.writeCtrl {s : State} (h : Inv s) (v : Word) : Inv (writeCtrl v s) := by
  unfold Machine.writeCtrl
  split
  · exact h.softReset
  · exact h.with_free_fields ..

/-! ### The step -/

theorem Inv.completion {s t : State} (h : Inv s) (hc : Completion s t) : Inv t := by
  obtain ⟨u, hu, hcases⟩ := hc
  have hInv : Inv u := by rw [hu]; exact h.with_free_fields ..
  have hp : u.params = s.params := by rw [hu]
  rcases hcases with ⟨Y, k, mal, hY, hk, rfl⟩ | ⟨e, rfl⟩
  · exact hInv.commit (hp ▸ hY) hk
  · exact hInv.raiseError e

theorem Inv.busEffect {s t : State} (h : Inv s) {off : Nat} {v : Word} (h4 : off % 4 = 0)
    (he : BusEffect off v s t) : Inv t := by
  cases he with
  | ignored => exact h
  | dropped => exact h.with_free_fields ..
  | ctrl => exact h.writeCtrl v
  | status => exact h.writeStatus v
  | nop hb => exact h.nop (eng_idle_of_not_isBusy hb)
  | clrstat hb => exact h.clrstat (eng_idle_of_not_isBusy hb)
  | accepted _ hd => exact h.accept hd
  | blksz _ => exact h.with_free_fields ..
  | inLen _ => exact h.with_free_fields ..
  | ivLen _ => exact h.with_free_fields ..
  | bytes _ hoff => exact h.writeWord v h4 hoff

theorem Inv.stepEffect {s t : State} (h : Inv s) (he : StepEffect s t) : Inv t := by
  cases he with
  | waits => exact h
  | completes _ _ hc => exact h.completion hc
  | resets => exact inv_powerOnReset s
  | reads off _ _ => exact h.busRead off
  | writes off v _ h4 _ hw => exact Inv.busEffect (h.with_free_fields ..) h4 hw

/-- Settles O48: an event taken from the schedule is no part of the invariant, and every effect a
step can have keeps it. -/
theorem stepKeepsInv : Obligations.StepKeepsInv := by
  intro s t h hstep
  exact Inv.stepEffect (h.with_free_fields ..) (step_effect hstep)

end Sys2Proof.Machine
end

section
/-! The registers on the bus (10_state.md R21 to R43; 30_encoding.md R96): what the step of an
aligned access does, at each place of the window map, and what the flag registers read. -/

namespace Sys2Proof.Machine

/-! ### The step of an aligned access -/

theorem accessOffset_base_add (p : Params) {off : Nat} (h4 : off % 4 = 0) (hoff : off < 0x10000) :
    accessOffset p (p.base + off) 32 = .ok off := by
  have h := accessOffset_legal (p := p) (addr := p.base + off) (Nat.le_add_right _ _) (by omega) rfl
    (by rw [Nat.add_sub_cancel_left]; exact h4)
  rwa [Nat.add_sub_cancel_left] at h

theorem step_nextRead (s : State) {off : Nat} (h4 : off % 4 = 0) (hoff : off < 0x10000) :
    step (s.nextRead off) = .next (busRead off s) := by
  show takeEvent (.read (s.params.base + off) 32) s = _
  unfold takeEvent
  simp only [accessOffset_base_add s.params h4 hoff]

theorem step_nextWrite (s : State) (v : Word) {off : Nat} (h4 : off % 4 = 0)
    (hoff : off < 0x10000) : step (s.nextWrite off v) = busWrite off v s := by
  show takeEvent (.write (s.params.base + off) 32 v) s = _
  unfold takeEvent
  simp only [accessOffset_base_add s.params h4 hoff]

/-! ### The engine state -/

theorem isBusy_iff (s : State) : s.isBusy = true ↔ ∃ w, s.eng = .busy w := by
  unfold State.isBusy
  split <;> simp [*]

theorem isBusy_of_idle {s : State} (h : s.eng = .idle) : s.isBusy = false := by
  simp [State.isBusy, h]

theorem isBusy_of_busy {s : State} {w : Word} (h : s.eng = .busy w) : s.isBusy = true :=
  (isBusy_iff s).2 ⟨w, h⟩

/-! ### Reads by the map -/

/-- A read that returns no draw changes only the response (20_memory.md R67, R71). -/
theorem busRead_eq {s : State} {off : Nat}
    (h : s.eng = .idle ∨ (placeAt s.params off).drawsWhenBusy = false) :
    busRead off s = { s with response := some (readPlace off s) } := by
  unfold busRead
  rcases h with h | h
  · simp [isBusy_of_idle h]
  · simp [h]

theorem regAt_eq_none {off : Nat} (h : ¬(off % 4 = 0 ∧ off < 0x30)) : regAt off = none := by
  unfold regAt
  repeat rw [if_neg (by omega)]

theorem regAt_bounds {off : Nat} {r : Reg} (h : regAt off = some r) : off % 4 = 0 ∧ off < 0x30 := by
  by_contra hn
  rw [regAt_eq_none hn] at h
  cases h

theorem placeAt_reg {off : Nat} {r : Reg} (h : regAt off = some r) (p : Params) :
    placeAt p off = .reg r := by
  unfold placeAt
  rw [h]

theorem step_nextRead_reg (s : State) {off : Nat} {r : Reg} (h : regAt off = some r)
    (hr : (Place.reg r).drawsWhenBusy = false) :
    step (s.nextRead off) = .next { s with response := some (readReg r s) } := by
  obtain ⟨h4, hoff⟩ := regAt_bounds h
  have hp := placeAt_reg h s.params
  have hread : readPlace off s = readReg r s := by
    unfold readPlace
    rw [hp]
  rw [step_nextRead s h4 (by omega), busRead_eq (.inr (hp ▸ hr)), hread]

/-! ### Reserved places -/

/-- The reserved offsets, and the input window beyond IN_CAP (10_state.md R39). -/
theorem placeAt_reserved {p : Params} {off : Nat}
    (h : (0x030 ≤ off ∧ off < 0x100) ∨ (0x200 ≤ off ∧ off < 0x1000) ∨
      (0x1000 + p.inCap ≤ off ∧ off < 0x8000)) : placeAt p off = .reserved := by
  have hcap := inCap_le p
  unfold placeAt
  rw [regAt_eq_none (by omega)]
  unfold ivbBase ivbEnd inbEnd inbBase outbEnd outbBase
  rw [if_neg (by omega), if_neg (by omega), if_neg (by omega), if_neg (by omega)]

/-- The output window beyond OUT_CAP (10_state.md R39). -/
theorem placeAt_pastOutb {p : Params} {off : Nat} (h : 0x8000 + p.outCap ≤ off) :
    placeAt p off = .pastOutb := by
  have hcap := inCap_le p
  unfold placeAt
  rw [regAt_eq_none (by omega)]
  unfold ivbBase ivbEnd inbEnd inbBase outbEnd outbBase
  rw [if_neg (by omega), if_neg (by omega), if_neg (by omega), if_pos (by omega)]

/-- Both kinds of place beyond the buffers are RAZ/WI, the reserved ones also while BUSY. -/
theorem step_at_reserved (s : State) {off : Nat} (v : Word) (h4 : off % 4 = 0)
    (hoff : off < 0x10000)
    (hp : placeAt s.params off = .reserved ∨ placeAt s.params off = .pastOutb) :
    (s.eng = .idle ∨ placeAt s.params off = .reserved →
      step (s.nextRead off) = .next { s with response := some 0x00000000 }) ∧
    step (s.nextWrite off v) = .next { s with response := none } := by
  have hread : readPlace off s = 0x00000000 := by
    unfold readPlace
    rcases hp with hp | hp <;> rw [hp]
  have hwrite : busWrite off v s = .next { s with response := none } := by
    unfold busWrite
    rcases hp with hp | hp <;> simp only [hp]
  refine ⟨fun h => ?_, by rw [step_nextWrite s v h4 hoff, hwrite]⟩
  rw [step_nextRead s h4 hoff, busRead_eq (h.imp_right fun hr => by rw [hr]; rfl), hread]

/-- Settles O39: the reserved ranges are off the map, and so is the output window beyond OUTB, which
alone is read as a draw while BUSY. -/
theorem reservedReadsZeroIgnoresWrites : Obligations.ReservedReadsZeroIgnoresWrites := by
  intro s off v h4 hoff
  have hcap := inCap_le s.params
  by_cases hlow : off < 0x8000
  · have hp : placeAt s.params off = .reserved := placeAt_reserved (by omega)
    obtain ⟨hread, hwrite⟩ := step_at_reserved s v h4 (by omega) (.inl hp)
    exact ⟨fun _ => hread (.inr hp), hwrite⟩
  · have hp : placeAt s.params off = .pastOutb := placeAt_pastOutb (by omega)
    obtain ⟨hread, hwrite⟩ := step_at_reserved s v h4 (by omega) (.inr hp)
    exact ⟨fun h => hread (h.imp_right fun h' => absurd h' hlow), hwrite⟩

/-! ### Writes to the registers -/

/-- A bus write begins by recording that it returns no word. -/
theorem step_nextWrite_cmd (s : State) (w : Word) :
    step (s.nextWrite 0x00C w) = writeCmd w { s with response := none } :=
  step_nextWrite s w (by decide) (by decide)

theorem step_nextWrite_ctrl (s : State) (v : Word) :
    step (s.nextWrite 0x008 v) = .next (writeCtrl v { s with response := none }) :=
  step_nextWrite s v (by decide) (by decide)

theorem step_nextWrite_status (s : State) (v : Word) :
    step (s.nextWrite 0x010 v) = .next (writeStatus v { s with response := none }) :=
  step_nextWrite s v (by decide) (by decide)

theorem storeUnlessBusy_of_idle {s : State} (h : s.eng = .idle) (stored : State) :
    storeUnlessBusy s stored = .next stored := by
  simp [storeUnlessBusy, isBusy_of_idle h]

/-- A write that the map stores while IDLE (20_memory.md R68). -/
theorem step_nextWrite_stored {s stored : State} {v : Word} {off : Nat} (hi : s.eng = .idle)
    (h4 : off % 4 = 0) (hoff : off < 0x10000)
    (hw : busWrite off v s = storeUnlessBusy { s with response := none } stored) :
    step (s.nextWrite off v) = .next stored := by
  rw [step_nextWrite s v h4 hoff, hw]
  exact storeUnlessBusy_of_idle (s := { s with response := none }) hi stored

/-- Settles O43: the map stores the written word itself in each of the three, and reads it back. -/
theorem operandRegistersExact : Obligations.OperandRegistersExact := by
  refine ⟨fun s v hi => ⟨?_, ?_, ?_⟩, fun s => ⟨?_, ?_, ?_⟩, rfl, rfl, rfl⟩
  · exact step_nextWrite_stored hi (by decide) (by decide) rfl
  · exact step_nextWrite_stored hi (by decide) (by decide) rfl
  · exact step_nextWrite_stored hi (by decide) (by decide) rfl
  · exact step_nextRead_reg s (r := .blksz) rfl rfl
  · exact step_nextRead_reg s (r := .inLen) rfl rfl
  · exact step_nextRead_reg s (r := .ivLen) rfl rfl

/-! ### The dispatch of a CMD write -/

theorem decodeImmediate_eq_none {w : Word} (h0 : w ≠ 0x00000000) (h5 : w ≠ 0x00000005) :
    decodeImmediate w = none := by
  unfold decodeImmediate
  rw [if_neg h0, if_neg h5]

theorem writeCmd_of_busy {s : State} {v : Word} (h : s.eng = .busy v) (w : Word) :
    writeCmd w s = .next (dropWrite s) := by
  simp [writeCmd, isBusy_of_busy h]

theorem writeCmd_accepts {s : State} {w : Word} (h : s.eng = .idle)
    (hw : decodeImmediate w = none) : writeCmd w s = .next (accept w s) := by
  simp [writeCmd, isBusy_of_idle h, hw]

theorem writeCmd_executes {s : State} {w : Word} {i : Instr} (h : s.eng = .idle)
    (hw : decodeImmediate w = some i) : writeCmd w s = exec i s := by
  simp [writeCmd, isBusy_of_idle h, hw]

/-- Settles O35: a word that is not immediate is accepted by an IDLE engine and dropped by a
BUSY one. -/
theorem commandAcceptance : Obligations.CommandAcceptance := by
  intro s w h0 h5
  refine ⟨fun hi => ?_, fun v hv => ?_⟩
  · rw [step_nextWrite_cmd]
    exact writeCmd_accepts (s := { s with response := none }) hi (decodeImmediate_eq_none h0 h5)
  · rw [step_nextWrite_cmd]
    exact writeCmd_of_busy (s := { s with response := none }) hv w

theorem decodeImmediate_some {w : Word} {i : Instr} (h : decodeImmediate w = some i) :
    i = .nop ∨ i = .clrstat := by
  unfold decodeImmediate at h
  split at h
  · exact .inl (Option.some.inj h).symm
  · split at h
    · exact .inr (Option.some.inj h).symm
    · cases h

/-- A word that decodes is immediate and means NOP or CLRSTAT, or is the engine's to decode and
means another command (30_encoding.md R96). -/
theorem decode_ok_cases {w : Word} {i : Instr} (h : decode w = .ok i) :
    (decodeImmediate w = some i ∧ (i = .nop ∨ i = .clrstat)) ∨
      (decodeEngine w = .ok i ∧ i ≠ .nop ∧ i ≠ .clrstat) := by
  unfold decode at h
  split at h
  · rename_i j hj
    cases h
    exact .inl ⟨hj, decodeImmediate_some hj⟩
  · exact .inr ⟨h, decodeEngine_not_immediate h⟩

/-! ### The engine's turn -/

theorem step_of_schedule_nil {s : State} (h : s.schedule = []) : step s = engineTurn s := by
  unfold step
  rw [h]

theorem step_of_schedule_engine {s : State} {rest : List Event} (h : s.schedule = .engine :: rest) :
    step s = engineTurn { s with schedule := rest } := by
  unfold step
  rw [h]
  rfl

theorem engineTurn_of_idle {s : State} (h : s.eng = .idle) : engineTurn s = .next s := by
  unfold engineTurn
  rw [h]

theorem engineTurn_of_busy {s : State} {w : Word} {i : Instr} (h : s.eng = .busy w)
    (hd : decodeEngine w = .ok i) : engineTurn s = exec i s := by
  unfold engineTurn
  rw [h]
  simp only [engineStep, hd]

/-- Settles O7: the word's two decoders, the one of the CMD write and the one of the engine, each
run the command they give. -/
theorem stepRunsDecodedCommand : Obligations.StepRunsDecodedCommand := by
  intro s w i rest hd
  refine ⟨fun hnop hclr hb => ?_, fun himm hidle => ?_, fun hidle => ⟨fun hs => ?_, fun hs => ?_⟩⟩
  · rcases decode_ok_cases hd with ⟨_, himm⟩ | ⟨he, _⟩
    · exact absurd himm (not_or.2 ⟨hnop, hclr⟩)
    · refine ⟨fun hs => ?_, fun hs => ?_⟩
      · rw [step_of_schedule_engine hs]
        exact engineTurn_of_busy (s := { s with schedule := rest }) hb he
      · rw [step_of_schedule_nil hs]
        exact engineTurn_of_busy hb he
  · rcases decode_ok_cases hd with ⟨hi, _⟩ | ⟨_, hne⟩
    · rw [step_nextWrite_cmd]
      exact writeCmd_executes (s := { s with response := none }) hidle hi
    · exact absurd himm (not_or.2 hne)
  · rw [step_of_schedule_engine hs]
    exact engineTurn_of_idle (s := { s with schedule := rest }) hidle
  · rw [step_of_schedule_nil hs]
    exact engineTurn_of_idle hidle

/-! ### Words made of flags -/

theorem flagBit_true (n : Nat) : flagBit true n = BitVec.twoPow 32 n := by
  rw [BitVec.twoPow_eq]
  rfl

theorem flagBit_getLsbD (b : Bool) {n : Nat} (hn : n < 32) (i : Nat) :
    (flagBit b n).getLsbD i = (b && decide (i = n)) := by
  cases b
  · simp [flagBit]
  · rw [flagBit_true, BitVec.getLsbD_twoPow, decide_eq_true hn, Bool.true_and, Bool.true_and]
    exact decide_eq_decide.2 eq_comm

theorem flagBit_toNat (b : Bool) {n : Nat} (hn : n < 32) :
    (flagBit b n).toNat = b.toNat * 2 ^ n := by
  cases b
  · simp [flagBit]
  · rw [flagBit_true, BitVec.toNat_twoPow_of_lt hn, Bool.toNat_true, Nat.one_mul]

theorem flagBit_toNat_lt (b : Bool) {n k : Nat} (hn : n < k) (hk : k ≤ 32) :
    (flagBit b n).toNat < 2 ^ k := by
  rw [flagBit_toNat b (by omega)]
  calc b.toNat * 2 ^ n ≤ 1 * 2 ^ n := Nat.mul_le_mul_right _ (Bool.toNat_le b)
    _ = 2 ^ n := Nat.one_mul _
    _ < 2 ^ k := Nat.pow_lt_pow_right (by decide) hn

/-- A flag above every bit of a word adds its weight to the word's value. -/
theorem or_flagBit_toNat {x : Word} (b : Bool) {n : Nat} (hn : n < 32) (hx : x.toNat < 2 ^ n) :
    (x ||| flagBit b n).toNat = x.toNat + b.toNat * 2 ^ n := by
  rw [BitVec.toNat_or, flagBit_toNat b hn, Nat.mul_comm, Nat.or_comm,
    ← Nat.two_pow_add_eq_or_of_lt hx, Nat.add_comm]

/-! ### CTRL -/

theorem ctrlWord_toNat (s : State) :
    s.ctrlWord.toNat = 2 * s.ieDone.toNat + 4 * s.ieFail.toNat := by
  unfold State.ctrlWord
  rw [or_flagBit_toNat _ (by decide) (flagBit_toNat_lt _ (by decide) (by decide)),
    flagBit_toNat _ (by decide)]
  omega

theorem writeCtrl_of_reset {v : Word} (h : v.getLsbD 0 = true) (s : State) :
    writeCtrl v s = softReset s := if_pos h

theorem writeCtrl_of_not_reset {v : Word} (h : v.getLsbD 0 = false) (s : State) :
    writeCtrl v s = { s with ieDone := v.getLsbD 1, ieFail := v.getLsbD 2 } :=
  if_neg (Bool.eq_false_iff.1 h)

/-- Settles O41: bit 0 of the written word alone decides between a soft reset and a store, and
CTRL's value is the sum of its two enables. -/
theorem controlRegister : Obligations.ControlRegister := by
  have hzero : ∀ s : State, s.ieDone = false → s.ieFail = false → s.ctrlWord = 0x00000000 :=
    fun s hd hf => BitVec.eq_of_toNat_eq (by rw [ctrlWord_toNat, hd, hf]; rfl)
  refine ⟨fun s v => ⟨fun h => ?_, fun h => ⟨?_, hzero _ rfl rfl⟩⟩, fun s => ?_, hzero _ rfl rfl⟩
  · rw [step_nextWrite_ctrl, writeCtrl_of_not_reset h]
  · rw [step_nextWrite_ctrl, writeCtrl_of_reset h]
  · exact ⟨s.ctrlWord, step_nextRead_reg s (r := .ctrl) rfl rfl, ctrlWord_toNat s⟩

/-! ### STATUS -/

/-- Each bit of STATUS is its own flag, and no flag stands above bit 5 (10_state.md R25). -/
theorem statusWord_getLsbD (s : State) (i : Nat) : s.statusWord.getLsbD i =
    (s.isBusy && decide (i = 0) || s.done && decide (i = 1) || s.fail && decide (i = 2) ||
      s.malf && decide (i = 3) || s.werr && decide (i = 4) || s.irq && decide (i = 5)) := by
  simp only [State.statusWord, BitVec.getLsbD_or, flagBit_getLsbD, Nat.reduceLT]

theorem statusWord_toNat_lt (s : State) : s.statusWord.toNat < 64 := by
  have hbit : ∀ (b : Bool) (n : Nat), n < 6 → (flagBit b n).toNat < 2 ^ 6 :=
    fun b n hn => flagBit_toNat_lt b hn (by decide)
  simp only [State.statusWord, BitVec.toNat_or]
  exact Nat.or_lt_two_pow (Nat.or_lt_two_pow (Nat.or_lt_two_pow (Nat.or_lt_two_pow
    (Nat.or_lt_two_pow (hbit _ 0 (by decide)) (hbit _ 1 (by decide))) (hbit _ 2 (by decide)))
    (hbit _ 3 (by decide)))
    (hbit _ 4 (by decide))) (hbit _ 5 (by decide))

theorem irq_iff (s : State) : s.irq = true ↔
    (s.done = true ∧ s.ieDone = true) ∨ (s.fail = true ∧ s.ieFail = true) := by
  simp [State.irq]

/-- W1C of one flag: a written 1 clears it and a written 0 keeps it (10_state.md R25). -/
theorem writeOneClears (flag bit : Bool) :
    (bit = true → (flag && !bit) = false) ∧ (bit = false → (flag && !bit) = flag) :=
  ⟨fun h => by simp [h], fun h => by simp [h]⟩

/-- Settles O42: bit n of STATUS is the flag of place n, and a write keeps a flag exactly where its
bit is 0. -/
theorem statusRegister : Obligations.StatusRegister := by
  refine ⟨fun s => ⟨s.statusWord, step_nextRead_reg s (r := .status) rfl rfl, ?_⟩, fun s v =>
    ⟨writeStatus v { s with response := none }, step_nextWrite_status s v, rfl, ?_⟩⟩
  · have hbit := statusWord_getLsbD s
    refine ⟨?_, ?_, ?_, ?_, ?_, ?_, statusWord_toNat_lt s⟩
    · rw [← isBusy_iff, show s.statusWord.getLsbD 0 = s.isBusy by rw [hbit]; simp]
    · rw [hbit]; simp
    · rw [hbit]; simp
    · rw [hbit]; simp
    · rw [hbit]; simp
    · rw [← irq_iff, show s.statusWord.getLsbD 5 = s.irq by rw [hbit]; simp]
  · obtain ⟨hd, hd'⟩ := writeOneClears s.done (v.getLsbD 1)
    obtain ⟨hf, hf'⟩ := writeOneClears s.fail (v.getLsbD 2)
    obtain ⟨hm, hm'⟩ := writeOneClears s.malf (v.getLsbD 3)
    obtain ⟨hw, hw'⟩ := writeOneClears s.werr (v.getLsbD 4)
    exact ⟨hd, hd', hf, hf', hm, hm', hw, hw'⟩

/-! ### The constant registers -/

theorem capsWord_toNat (p : Params) : (capsWord p).toNat = p.inCap + 65536 := by
  have hcap := inCap_le p
  have hval : (BitVec.ofNat 32 p.inCap).toNat = p.inCap := by
    rw [BitVec.toNat_ofNat]
    omega
  unfold capsWord
  rw [or_flagBit_toNat _ (by decide) (by omega), hval]
  rfl

/-- CIPHER_INFO.CBS (10_state.md R28). -/
theorem cipherBlockField_toNat (c : CipherPort) :
    (BitVec.ofNat 32 (c.bs % 65536)).toNat = c.bs % 65536 := by
  rw [BitVec.toNat_ofNat]
  omega

theorem cipherInfoWord_toNat_of_ok {c : CipherPort} (h : c.status = .ok) :
    (cipherInfoWord c).toNat = c.bs % 65536 := by
  unfold cipherInfoWord
  rw [h]
  exact cipherBlockField_toNat c

/-- A failed port adds its mark at bit 16 and its code from bit 24, both above the block size. -/
theorem cipherInfoWord_toNat_of_failed {c : CipherPort} {code : BitVec 8}
    (h : c.status = .failed code) :
    (cipherInfoWord c).toNat = c.bs % 65536 + (65536 + 16777216 * code.toNat) := by
  have hbs := cipherBlockField_toNat c
  have hlow : (BitVec.ofNat 32 (c.bs % 65536) ||| flagBit true 16).toNat =
      c.bs % 65536 + 65536 := by
    rw [or_flagBit_toNat _ (by decide) (by omega), hbs]
    rfl
  have hcode : (code.setWidth 32 <<< 24).toNat = 2 ^ 24 * code.toNat := by
    simp only [BitVec.toNat_shiftLeft, BitVec.toNat_setWidth, Nat.shiftLeft_eq]
    omega
  unfold cipherInfoWord
  rw [h]
  simp only
  rw [BitVec.toNat_or, hcode, hlow, Nat.or_comm, ← Nat.two_pow_add_eq_or_of_lt (by omega)]
  omega

/-- The three registers that the platform fixes ignore writes (10_state.md R21, R22, R28). -/
theorem step_nextWrite_constant (s : State) (v : Word) {off : Nat} {r : Reg}
    (h : regAt off = some r) (hr : r = .id ∨ r = .caps ∨ r = .cipherInfo) :
    step (s.nextWrite off v) = .next { s with response := none } := by
  obtain ⟨h4, hoff⟩ := regAt_bounds h
  rw [step_nextWrite s v h4 (by omega)]
  unfold busWrite
  simp only [placeAt_reg h]
  rcases hr with rfl | rfl | rfl <;> rfl

/-- Settles O44: the values are those of the words the map reads, and no write reaches them. -/
theorem constantRegisters : Obligations.ConstantRegisters := by
  intro s v
  refine ⟨fun off hoff => ?_, step_nextRead_reg s (r := .id) rfl rfl,
    ⟨_, step_nextRead_reg s (r := .caps) rfl rfl, capsWord_toNat s.params⟩,
    ⟨_, step_nextRead_reg s (r := .cipherInfo) rfl rfl, ?_⟩⟩
  · simp only [List.mem_cons, List.not_mem_nil, or_false] at hoff
    rcases hoff with rfl | rfl | rfl
    · exact step_nextWrite_constant s v (r := .id) rfl (.inl rfl)
    · exact step_nextWrite_constant s v (r := .caps) rfl (.inr (.inl rfl))
    · exact step_nextWrite_constant s v (r := .cipherInfo) rfl (.inr (.inr rfl))
  · show (cipherInfoWord s.params.cipher).toNat = _
    cases hs : s.params.cipher.status with
    | ok => exact cipherInfoWord_toNat_of_ok hs
    | failed code => exact cipherInfoWord_toNat_of_failed hs

end Sys2Proof.Machine
end

section
/-! Schedules and runs (20_memory.md R66, R72, R73, R80; 70_reset_and_hazards.md R302): what every
effect of a step keeps of a run, that a legal event is always served, and the induction over the
events to come. -/

namespace Sys2Proof.Machine

/-! ### The parameters and the schedule of a run -/

/-- `t` has the parameters and the events to come of `s`. -/
structure SameRun (s t : State) : Prop where
  params : t.params = s.params
  schedule : t.schedule = s.schedule

theorem Completion.sameRun {s t : State} (h : Completion s t) : SameRun s t := by
  obtain ⟨u, hu, hcases⟩ := h
  have hsu : SameRun s u := by rw [hu]; exact ⟨rfl, rfl⟩
  rcases hcases with ⟨Y, k, mal, _, _, rfl⟩ | ⟨e, rfl⟩
  · exact ⟨hsu.params, hsu.schedule⟩
  · exact ⟨hsu.params, hsu.schedule⟩

theorem Completion.eng {s t : State} (h : Completion s t) : t.eng = .idle := by
  obtain ⟨u, _, ⟨Y, k, mal, _, _, rfl⟩ | ⟨e, rfl⟩⟩ := h
  · exact commit_eng Y k mal u
  · exact raiseError_eng e u

theorem sameRun_writeCtrl (v : Word) (s : State) : SameRun s (writeCtrl v s) := by
  unfold writeCtrl
  split
  · exact ⟨rfl, rfl⟩
  · exact ⟨rfl, rfl⟩

theorem sameRun_busRead (off : Nat) (s : State) : SameRun s (busRead off s) := by
  unfold busRead
  split
  · exact ⟨rfl, rfl⟩
  · exact ⟨rfl, rfl⟩

theorem BusEffect.sameRun {off : Nat} {v : Word} {s t : State} (h : BusEffect off v s t) :
    SameRun s t := by
  cases h with
  | ctrl => exact sameRun_writeCtrl v s
  | _ => exact ⟨rfl, rfl⟩

theorem StepEffect.sameRun {s t : State} (h : StepEffect s t) : SameRun s t := by
  cases h with
  | waits => exact ⟨rfl, rfl⟩
  | completes _ _ hc => exact hc.sameRun
  | resets => exact ⟨rfl, rfl⟩
  | reads off _ _ => exact sameRun_busRead off s
  | writes off v _ _ _ hw => exact ⟨hw.sameRun.params, hw.sameRun.schedule⟩

theorem step_params {s t : State} (h : step s = .next t) : t.params = s.params :=
  (step_effect h).sameRun.params

/-- A step takes one event, whatever it does (20_memory.md R72). -/
theorem step_schedule {s t : State} (h : step s = .next t) : t.schedule = s.schedule.tail :=
  (step_effect h).sameRun.schedule

/-! ### Legal events are served -/

theorem step_of_schedule_cons {s : State} {e : Event} {rest : List Event}
    (h : s.schedule = e :: rest) : step s = takeEvent e { s with schedule := rest } := by
  unfold step
  rw [h]

theorem takeEvent_answers {e : Event} {s : State} (h : e.legal s.params) :
    ∃ t, takeEvent e s = .next t := by
  cases e with
  | read addr width =>
    obtain ⟨hlo, hhi, hwidth, halign⟩ := h
    simp only [takeEvent, accessOffset_legal hlo hhi hwidth halign]
    exact ⟨_, rfl⟩
  | write addr width v =>
    obtain ⟨hlo, hhi, hwidth, halign⟩ := h
    simp only [takeEvent, accessOffset_legal hlo hhi hwidth halign]
    obtain ⟨t, ht, _⟩ := busWrite_effect (addr - s.params.base) v s
    exact ⟨t, ht⟩
  | engine =>
    obtain ⟨t, ht, _⟩ := engineTurn_effect s
    exact ⟨t, ht⟩
  | powerOn => exact ⟨_, rfl⟩

theorem step_answers {s : State} (h : SafeSchedule s) : ∃ t, step s = .next t := by
  cases hs : s.schedule with
  | nil =>
    rw [step_of_schedule_nil hs]
    obtain ⟨t, ht, _⟩ := engineTurn_effect s
    exact ⟨t, ht⟩
  | cons e rest =>
    rw [step_of_schedule_cons hs]
    exact takeEvent_answers (h e (hs ▸ List.mem_cons_self))

/-- What holds of every event to come holds of those that a step leaves. -/
theorem events_of_step {P : Params → Event → Prop} {s t : State}
    (h : ∀ e ∈ s.schedule, P s.params e) (ht : step s = .next t) :
    ∀ e ∈ t.schedule, P t.params e := by
  intro e he
  rw [step_params ht]
  rw [step_schedule ht] at he
  exact h e (List.mem_of_mem_tail he)

theorem SafeSchedule.step {s t : State} (h : SafeSchedule s) (ht : step s = .next t) :
    SafeSchedule t := events_of_step (P := Event.legal) h ht

/-- Settles O60: a legal event is served, and a step leaves the parameters and the rest of the
events as they are, so what was legal stays legal. -/
theorem stepKeepsSafeSchedule : Obligations.StepKeepsSafeSchedule := by
  intro s h
  obtain ⟨t, ht⟩ := step_answers h
  exact ⟨t, ht, h.step ht⟩

/-! ### Runs over the events to come -/

theorem run_succ {M : Host.Core} {s t : M.State} (h : M.step s = .next t) (k : Nat) :
    M.run (k + 1) s = M.run k t := by
  rw [Host.Core.run, h]

/-- A step after a run makes the run one step longer. -/
theorem run_succ_last {M : Host.Core} {k : Nat} {s t u : M.State} (hrun : M.run k s = .next t)
    (hstep : M.step t = .next u) : M.run (k + 1) s = .next u := by
  induction k generalizing s with
  | zero =>
    cases hrun
    exact run_succ hstep 0
  | succ k ih =>
    rw [Host.Core.run] at hrun
    split at hrun
    · rename_i s' hs'
      rw [run_succ hs', ih hrun]
    · cases hrun
    · cases hrun

/-- What each event to come keeps, and is served under, holds when the events are used up. -/
theorem run_over_schedule {P : State → Prop}
    (hP : ∀ s, P s → s.schedule ≠ [] → ∃ t, step s = .next t ∧ P t) (s : State) (hs : P s) :
    ∃ t : State, Host.Core.run Sys2Proof.core s.schedule.length s = .next t ∧ P t ∧
      t.schedule = [] := by
  induction hevents : s.schedule generalizing s with
  | nil => exact ⟨s, rfl, hs, hevents⟩
  | cons e rest ih =>
    obtain ⟨u, hu, hPu⟩ := hP s hs (by simp [hevents])
    have hrest : u.schedule = rest := by rw [step_schedule hu, hevents, List.tail_cons]
    obtain ⟨t, hrun, ht⟩ := ih u hPu hrest
    exact ⟨t, (run_succ (M := Sys2Proof.core) hu rest.length).trans hrun, ht⟩

/-- The engine's turn leaves the engine IDLE (10_state.md R33). -/
theorem engineTurn_idle (s : State) : ∃ t, engineTurn s = .next t ∧ t.eng = .idle := by
  cases hs : s.eng with
  | idle => exact ⟨s, engineTurn_of_idle hs, hs⟩
  | busy w =>
    obtain ⟨t, ht, hc⟩ := engineStep_completion w s
    exact ⟨t, by simp only [engineTurn, hs, ht], hc.eng⟩

/-- Settles O49: the run uses up the events, and the engine's turn after them ends a command that
may still be latched. -/
theorem safeScheduleRunsToFinal : Obligations.SafeScheduleRunsToFinal := by
  intro s h
  obtain ⟨u, hrun, _, hu⟩ := run_over_schedule
    (fun v hv _ => (step_answers hv).imp fun _ ht => ⟨ht, hv.step ht⟩) s h
  obtain ⟨t, hturn, hidle⟩ := engineTurn_idle u
  have hstep : step u = .next t := by rw [step_of_schedule_nil hu, hturn]
  have hend : t.schedule = [] := by rw [step_schedule hstep, hu, List.tail_nil]
  exact ⟨t, run_succ_last (M := Sys2Proof.core) hrun hstep, hend, hidle⟩

end Sys2Proof.Machine
end

section
/-! Host accesses by place (20_memory.md R61, R65 to R68, R71): which offsets stand at each place of the
window map, and what a read or a write does there in either engine state. -/

namespace Sys2Proof.Machine

/-! ### The window map -/

/-- The window offset of a register (20_memory.md R61). -/
def Reg.offset : Reg → Nat
  | .id => 0x000
  | .caps => 0x004
  | .ctrl => 0x008
  | .cmd => 0x00C
  | .status => 0x010
  | .blksz => 0x014
  | .err => 0x018
  | .cipherInfo => 0x01C
  | .inLen => 0x020
  | .outLen => 0x024
  | .ivLen => 0x028
  | .blocks => 0x02C

theorem regAt_offset (r : Reg) : regAt r.offset = some r := by cases r <;> rfl

theorem regAt_eq_some_iff {off : Nat} {r : Reg} : regAt off = some r ↔ off = r.offset := by
  refine ⟨fun h => ?_, fun h => h ▸ regAt_offset r⟩
  obtain ⟨h4, hoff⟩ := regAt_bounds h
  obtain ⟨k, rfl⟩ := Nat.dvd_of_mod_eq_zero h4
  have hk : k < 12 := by omega
  interval_cases k <;> cases h <;> rfl

theorem placeAt_eq_reg_iff {p : Params} {off : Nat} {r : Reg} :
    placeAt p off = .reg r ↔ off = r.offset := by
  refine ⟨fun h => ?_, fun h => placeAt_reg (regAt_eq_some_iff.2 h) p⟩
  rw [← regAt_eq_some_iff]
  unfold placeAt at h
  split at h
  · rename_i q hq
    cases h
    exact hq
  · split_ifs at h

theorem placeAt_eq_ivb_iff {p : Params} {off : Nat} :
    placeAt p off = .ivb ↔ 0x100 ≤ off ∧ off < 0x200 := by
  refine ⟨placeAt_ivb, fun h => ?_⟩
  unfold placeAt
  rw [regAt_eq_none (by omega)]
  exact if_pos h

theorem placeAt_eq_inb_iff {p : Params} {off : Nat} :
    placeAt p off = .inb ↔ 0x1000 ≤ off ∧ off < 0x1000 + p.inCap := by
  refine ⟨placeAt_inb, fun h => ?_⟩
  unfold placeAt
  rw [regAt_eq_none (by omega)]
  simp only
  rw [if_neg (by unfold ivbEnd; omega)]
  exact if_pos h

theorem placeAt_eq_outb_iff {p : Params} {off : Nat} :
    placeAt p off = .outb ↔ 0x8000 ≤ off ∧ off < 0x8000 + p.outCap := by
  have hcap := inCap_le p
  refine ⟨fun h => ?_, fun h => ?_⟩
  · unfold placeAt at h
    split at h
    · cases h
    · split_ifs at h
      assumption
  · unfold placeAt
    rw [regAt_eq_none (by omega)]
    simp only
    rw [if_neg (by unfold ivbEnd; omega), if_neg (by unfold inbEnd inbBase; omega)]
    exact if_pos h

theorem placeAt_eq_pastOutb_iff {p : Params} {off : Nat} :
    placeAt p off = .pastOutb ↔ 0x8000 + p.outCap ≤ off := by
  refine ⟨fun h => ?_, placeAt_pastOutb⟩
  unfold placeAt at h
  split at h
  · cases h
  · split_ifs at h
    assumption

/-- An aligned word that begins in a buffer ends in it, so before the output window when the buffer is
IVB or INB. -/
theorem aligned_word_before_outb {p : Params} {off : Nat} (h4 : off % 4 = 0)
    (h : placeAt p off = .ivb ∨ placeAt p off = .inb) : off + 4 ≤ outbBase := by
  have hcap := inCap_le p
  rw [placeAt_eq_ivb_iff, placeAt_eq_inb_iff] at h
  unfold outbBase
  omega

/-! ### What a BUSY engine does with a place -/

/-- Whether a write to this place is dropped with WERR while BUSY (20_memory.md R71). -/
def Place.dropsWhenBusy : Place → Bool
  | .reg .cmd | .reg .blksz | .reg .inLen | .reg .ivLen | .ivb | .inb => true
  | _ => false

theorem Place.dropsWhenBusy_iff (pl : Place) : pl.dropsWhenBusy = true ↔
    pl = .reg .cmd ∨ pl = .reg .blksz ∨ pl = .reg .inLen ∨ pl = .reg .ivLen ∨ pl = .ivb ∨
      pl = .inb := by
  cases pl with
  | reg r => cases r <;> simp [Place.dropsWhenBusy]
  | _ => simp [Place.dropsWhenBusy]

theorem Place.drawsWhenBusy_iff (pl : Place) : pl.drawsWhenBusy = true ↔
    pl = .reg .err ∨ pl = .reg .outLen ∨ pl = .reg .blocks ∨ pl = .outb ∨ pl = .pastOutb := by
  cases pl with
  | reg r => cases r <;> simp [Place.drawsWhenBusy]
  | _ => simp [Place.drawsWhenBusy]

/-- The offsets of the guarded registers and buffers (20_memory.md R71). -/
theorem dropsWhenBusy_placeAt_iff (p : Params) (off : Nat) :
    (placeAt p off).dropsWhenBusy = true ↔
      off = 0x00C ∨ off = 0x014 ∨ off = 0x020 ∨ off = 0x028 ∨
        (0x100 ≤ off ∧ off < 0x200) ∨ (0x1000 ≤ off ∧ off < 0x1000 + p.inCap) := by
  rw [Place.dropsWhenBusy_iff]
  simp only [placeAt_eq_reg_iff, placeAt_eq_ivb_iff, placeAt_eq_inb_iff, Reg.offset]

/-- The offsets that read as draws (20_memory.md R71). -/
theorem drawsWhenBusy_placeAt_iff (p : Params) (off : Nat) :
    (placeAt p off).drawsWhenBusy = true ↔
      off = 0x018 ∨ off = 0x024 ∨ off = 0x02C ∨ 0x8000 ≤ off := by
  rw [Place.drawsWhenBusy_iff]
  simp only [placeAt_eq_reg_iff, placeAt_eq_outb_iff, placeAt_eq_pastOutb_iff, Reg.offset]
  omega

/-! ### Accesses by place -/

theorem busRead_draws {s : State} {w : Word} {off : Nat} (hb : s.eng = .busy w)
    (h : (placeAt s.params off).drawsWhenBusy = true) : busRead off s =
      { s with response := some (Config.busyRead s.draws), draws := s.draws + 1 } := by
  unfold busRead
  rw [isBusy_of_busy hb, h]
  rfl

/-- A read that returns no draw (20_memory.md R67). -/
theorem step_nextRead_map {s : State} {off : Nat} (h4 : off % 4 = 0) (hoff : off < 0x10000)
    (h : s.eng = .idle ∨ ¬(off = 0x018 ∨ off = 0x024 ∨ off = 0x02C ∨ 0x8000 ≤ off)) :
    step (s.nextRead off) = .next { s with response := some (readPlace off s) } := by
  rw [step_nextRead s h4 hoff, busRead_eq]
  rwa [← drawsWhenBusy_placeAt_iff s.params, Bool.not_eq_true] at h

theorem storeUnlessBusy_of_busy {s : State} {w : Word} (h : s.eng = .busy w) (stored : State) :
    storeUnlessBusy s stored = .next (dropWrite s) := by
  simp [storeUnlessBusy, isBusy_of_busy h]

theorem busWrite_dropped {s : State} {w : Word} {off : Nat} (v : Word) (hb : s.eng = .busy w)
    (h : (placeAt s.params off).dropsWhenBusy = true) :
    busWrite off v s = .next { s with response := none, werr := true } := by
  have hstore := storeUnlessBusy_of_busy (s := { s with response := none }) hb
  unfold busWrite
  rcases (Place.dropsWhenBusy_iff _).1 h with hp | hp | hp | hp | hp | hp
  · simp only [hp]
    exact writeCmd_of_busy (s := { s with response := none }) hb v
  all_goals
    simp only [hp]
    exact hstore _

/-- Of the places that are not guarded, only CTRL and STATUS take writes (20_memory.md R68). -/
theorem busWrite_ignored {s : State} {off : Nat} (v : Word)
    (hguard : (placeAt s.params off).dropsWhenBusy = false) (hctrl : off ≠ 0x008)
    (hstatus : off ≠ 0x010) : busWrite off v s = .next { s with response := none } := by
  have hc : placeAt s.params off ≠ .reg .ctrl := mt placeAt_eq_reg_iff.1 hctrl
  have hs : placeAt s.params off ≠ .reg .status := mt placeAt_eq_reg_iff.1 hstatus
  unfold busWrite
  dsimp only
  cases hp : placeAt s.params off with
  | reg r =>
    rw [hp] at hguard hc hs
    cases r with
    | ctrl => exact absurd rfl hc
    | status => exact absurd rfl hs
    | cmd | blksz | inLen | ivLen => cases hguard
    | id | caps | err | cipherInfo | outLen | blocks => rfl
  | ivb | inb => rw [hp] at hguard; cases hguard
  | outb | pastOutb | reserved => rfl

/-- Settles O36: the offsets of each row of the table are those of its places, and CTRL and STATUS act
as they do while IDLE. -/
theorem busyAccessRules : Obligations.BusyAccessRules := by
  intro s w v off hb h4 hoff guarded drawn
  have hguarded : (placeAt s.params off).dropsWhenBusy = true ↔ guarded :=
    dropsWhenBusy_placeAt_iff s.params off
  have hdrawn : (placeAt s.params off).drawsWhenBusy = true ↔ drawn :=
    drawsWhenBusy_placeAt_iff s.params off
  refine ⟨fun h => ?_, fun h => ?_, fun h => ?_, fun h hctrl hstatus => ?_, fun h => ?_, fun h => ?_⟩
  · rw [step_nextWrite s v h4 hoff, busWrite_dropped v hb (hguarded.2 h)]
  · rw [h, step_nextWrite_ctrl]
  · rw [h, step_nextWrite_status]
  · have hguard := Bool.eq_false_iff.2 (mt hguarded.1 h)
    rw [step_nextWrite s v h4 hoff, busWrite_ignored v hguard hctrl hstatus]
  · rw [step_nextRead s h4 hoff, busRead_draws hb (hdrawn.2 h)]
  · exact step_nextRead_map h4 hoff (.inr h)

/-- An access in the window that is not 32 bits wide or not aligned (20_memory.md R66). -/
theorem accessOffset_busError {p : Params} {addr width : Nat} (hlo : p.base ≤ addr)
    (hhi : addr < p.base + 0x10000) (h : width ≠ 32 ∨ (addr - p.base) % 4 ≠ 0) :
    accessOffset p addr width = .error .busError := by
  unfold accessOffset
  rw [if_pos ⟨hlo, hhi⟩, if_neg (by omega)]

/-- Settles O37: neither kind of access gets an offset. -/
theorem busErrorOnBadAccess : Obligations.BusErrorOnBadAccess := by
  intro s addr width v rest hlo hhi hbad
  have herr := accessOffset_busError hlo hhi hbad
  refine ⟨?_, ?_⟩
  · rw [step_of_schedule_cons rfl]
    simp only [takeEvent, herr]
  · rw [step_of_schedule_cons rfl]
    simp only [takeEvent, herr]

/-! ### The values of the map -/

theorem readPlace_reg (r : Reg) (s : State) : readPlace r.offset s = readReg r s := by
  unfold readPlace
  rw [placeAt_eq_reg_iff.2 rfl]

theorem readPlace_buffer {s : State} {off : Nat}
    (h : (0x100 ≤ off ∧ off < 0x200) ∨ (0x1000 ≤ off ∧ off < 0x1000 + s.params.inCap) ∨
      (0x8000 ≤ off ∧ off < 0x8000 + s.params.outCap)) : readPlace off s = s.wordAt off := by
  rw [← placeAt_eq_ivb_iff (p := s.params), ← placeAt_eq_inb_iff, ← placeAt_eq_outb_iff] at h
  unfold readPlace
  rcases h with h | h | h <;> rw [h]

theorem readPlace_zero {s : State} {off : Nat}
    (h : placeAt s.params off = .reserved ∨ placeAt s.params off = .pastOutb) :
    readPlace off s = 0x00000000 := by
  unfold readPlace
  rcases h with h | h <;> rw [h]

/-- Settles O40: a read takes the map's value, which is that of the register, buffer word or zero
standing at the offset. -/
theorem readsFollowTheMap : Obligations.ReadsFollowTheMap := by
  refine ⟨fun s off h4 hoff h => step_nextRead_map h4 hoff h, fun s => ?_,
    fun s off _ h => readPlace_buffer h, fun s off _ h => readPlace_zero ?_⟩
  · have hcaps : capsWord s.params = BitVec.ofNat 32 (s.params.inCap + 65536) := by
      rw [← capsWord_toNat, BitVec.ofNat_toNat, BitVec.setWidth_eq]
    exact ⟨readPlace_reg .id s, (readPlace_reg .caps s).trans hcaps, readPlace_reg .ctrl s,
      readPlace_reg .cmd s, readPlace_reg .status s, readPlace_reg .blksz s, readPlace_reg .err s,
      readPlace_reg .cipherInfo s, readPlace_reg .inLen s, readPlace_reg .outLen s,
      readPlace_reg .ivLen s, readPlace_reg .blocks s⟩
  · rcases h with h | h | h | h
    · exact .inl (placeAt_reserved (.inl h))
    · exact .inl (placeAt_reserved (.inr (.inl h)))
    · exact .inl (placeAt_reserved (.inr (.inr h)))
    · exact .inr (placeAt_pastOutb h)

/-! ### Little-endian words -/

/-- A byte above every bit of a word adds its weight to the word's value. -/
theorem or_shifted_byte_toNat {x : Word} (b : Byte) {n : Nat} (hn : n ≤ 24)
    (hx : x.toNat < 2 ^ n) :
    (x ||| (b.setWidth 32 <<< n)).toNat = x.toNat + 2 ^ n * b.toNat := by
  have hb : (b.setWidth 32 <<< n).toNat = 2 ^ n * b.toNat := by
    have hlt : b.toNat * 2 ^ n < 2 ^ 32 :=
      calc b.toNat * 2 ^ n < 2 ^ 8 * 2 ^ n := Nat.mul_lt_mul_of_pos_right b.isLt (by positivity)
        _ = 2 ^ (8 + n) := (pow_add 2 8 n).symm
        _ ≤ 2 ^ 32 := Nat.pow_le_pow_right (by decide) (by omega)
    rw [BitVec.toNat_shiftLeft, BitVec.toNat_setWidth_of_le (by decide), Nat.shiftLeft_eq,
      Nat.mod_eq_of_lt hlt, Nat.mul_comm]
  rw [BitVec.toNat_or, hb, Nat.or_comm, ← Nat.two_pow_add_eq_or_of_lt hx, Nat.add_comm]

theorem wordAt_toNat (s : State) (a : Nat) : (s.wordAt a).toNat =
    (s.byteAt a).toNat + 256 * (s.byteAt (a + 1)).toNat + 65536 * (s.byteAt (a + 2)).toNat +
      16777216 * (s.byteAt (a + 3)).toNat := by
  have h0 : ((s.byteAt a).setWidth 32).toNat = (s.byteAt a).toNat :=
    BitVec.toNat_setWidth_of_le (by decide)
  have hb0 := (s.byteAt a).isLt
  have hb1 := (s.byteAt (a + 1)).isLt
  have hb2 := (s.byteAt (a + 2)).isLt
  have h1 := or_shifted_byte_toNat (x := (s.byteAt a).setWidth 32) (s.byteAt (a + 1)) (n := 8)
    (by decide) (by omega)
  have h2 := or_shifted_byte_toNat (x := _ ||| _) (s.byteAt (a + 2)) (n := 16)
    (by decide) (h1.trans_lt (by omega))
  have h3 := or_shifted_byte_toNat (x := _ ||| _) (s.byteAt (a + 3)) (n := 24)
    (by decide) (h2.trans_lt (by omega))
  unfold State.wordAt
  omega

theorem byteAt_writeWord_inside (s : State) (a : Nat) (v : Word) {j : Nat} (hj : j < 4) :
    State.byteAt { s with mem := s.mem.writeWord a v } (a + j) = v.extractLsb' (8 * j) 8 := by
  unfold State.byteAt Memory.writeWord
  simp only [read_writeBytes]
  rw [if_pos (by simpa using hj), Nat.add_sub_cancel_left]
  interval_cases j <;> rfl

theorem byteAt_writeWord_outside (s : State) (a : Nat) (v : Word) {b : Nat}
    (hb : ¬(a ≤ b ∧ b < a + 4)) :
    State.byteAt { s with mem := s.mem.writeWord a v } b = s.byteAt b :=
  byteAt_of_read (read_writeWord_of_outside _ _ _ hb) rfl

theorem busWrite_input {s : State} {off : Nat} (v : Word) (hi : s.eng = .idle)
    (h : placeAt s.params off = .ivb ∨ placeAt s.params off = .inb) :
    busWrite off v s = .next { s with response := none, mem := s.mem.writeWord off v } := by
  unfold busWrite
  rcases h with h | h
  all_goals
    simp only [h]
    exact storeUnlessBusy_of_idle (s := { s with response := none }) hi _

/-- Settles O38: both directions go through the four bytes of the aligned word. -/
theorem littleEndianBuffers : Obligations.LittleEndianBuffers := by
  intro s k hi
  have hcap := inCap_le s.params
  have hout := outCap_eq s.params
  refine ⟨fun p hp hk => ?_, fun p hp hk v => ?_⟩
  · simp only [List.mem_cons, List.not_mem_nil, or_false] at hp
    have hbuf : (0x100 ≤ p.1 + 4 * k ∧ p.1 + 4 * k < 0x200) ∨
        (0x1000 ≤ p.1 + 4 * k ∧ p.1 + 4 * k < 0x1000 + s.params.inCap) ∨
        (0x8000 ≤ p.1 + 4 * k ∧ p.1 + 4 * k < 0x8000 + s.params.outCap) := by
      rcases hp with rfl | rfl | rfl <;> omega
    have h4 : (p.1 + 4 * k) % 4 = 0 := by rcases hp with rfl | rfl | rfl <;> omega
    refine ⟨s.wordAt (p.1 + 4 * k), ?_, wordAt_toNat s _⟩
    rw [step_nextRead_map h4 (by omega) (.inl hi), readPlace_buffer hbuf]
  · simp only [List.mem_cons, List.not_mem_nil, or_false] at hp
    have hplace : placeAt s.params (p.1 + 4 * k) = .ivb ∨
        placeAt s.params (p.1 + 4 * k) = .inb := by
      rw [placeAt_eq_ivb_iff, placeAt_eq_inb_iff]
      rcases hp with rfl | rfl <;> omega
    have h4 : (p.1 + 4 * k) % 4 = 0 := by rcases hp with rfl | rfl <;> omega
    have hend : p.1 + 4 * k + 4 ≤ 0x8000 := aligned_word_before_outb h4 hplace
    refine ⟨_, (step_nextWrite s v h4 (by omega)).trans (busWrite_input v hi hplace), rfl,
      fun j hj => byteAt_writeWord_inside { s with response := none } _ v hj,
      fun a ha => byteAt_writeWord_outside { s with response := none } _ v ha⟩

end Sys2Proof.Machine
end

section
/-! The last result (20_memory.md R73): a quiet event, which issues no command but NOP and resets
nothing, leaves an IDLE engine's result registers and OUTB as they are. -/

namespace Sys2Proof.Machine

/-- `t` is IDLE with the parameters and the readable result of `s`: ERR, OUT_LEN, BLOCKS and the output
window. -/
structure ResultKept (s t : State) : Prop where
  idle : t.eng = .idle
  params : t.params = s.params
  err : t.err = s.err
  outLen : t.outLen = s.outLen
  blocks : t.blocks = s.blocks
  outWindow : ∀ a, outbBase ≤ a → t.byteAt a = s.byteAt a

theorem ResultKept.refl {s : State} (h : s.eng = .idle) : ResultKept s s :=
  ⟨h, rfl, rfl, rfl, rfl, fun _ _ => rfl⟩

theorem ResultKept.trans {s t u : State} (h : ResultKept s t) (h' : ResultKept t u) :
    ResultKept s u where
  idle := h'.idle
  params := h'.params.trans h.params
  err := h'.err.trans h.err
  outLen := h'.outLen.trans h.outLen
  blocks := h'.blocks.trans h.blocks
  outWindow := fun a ha => (h'.outWindow a ha).trans (h.outWindow a ha)

/-- A state whose events to come are all quiet. -/
def QuietSchedule (s : State) : Prop := ∀ e ∈ s.schedule, e.quiet s.params

theorem QuietSchedule.step {s t : State} (h : QuietSchedule s) (ht : step s = .next t) :
    QuietSchedule t := events_of_step (P := Event.quiet) h ht

/-- A word stored in IVB or INB ends before the output window. -/
theorem ResultKept.writeWord {s : State} {off : Nat} (v : Word) (hi : s.eng = .idle)
    (h4 : off % 4 = 0) (hp : placeAt s.params off = .ivb ∨ placeAt s.params off = .inb) :
    ResultKept s { s with response := none, mem := s.mem.writeWord off v } where
  idle := hi
  params := rfl
  err := rfl
  outLen := rfl
  blocks := rfl
  outWindow := fun a ha => by
    have hend := aligned_word_before_outb h4 hp
    exact byteAt_writeWord_outside { s with response := none } off v (by omega)

/-- Of the writes, only one to CMD can issue a command and only one to CTRL can reset. -/
theorem busWrite_keeps_result {s : State} {off : Nat} {v : Word} (hi : s.eng = .idle)
    (h4 : off % 4 = 0) (hcmd : off = 0x00C → v = 0x00000000)
    (hctrl : off = 0x008 → v.getLsbD 0 = false) :
    ∃ t, busWrite off v s = .next t ∧ ResultKept s t := by
  have hstore : ∀ stored, ResultKept s stored →
      ∃ t, storeUnlessBusy { s with response := none } stored = .next t ∧ ResultKept s t :=
    fun stored h => ⟨stored, storeUnlessBusy_of_idle (s := { s with response := none }) hi _, h⟩
  by_cases hin : placeAt s.params off = .ivb ∨ placeAt s.params off = .inb
  · exact ⟨_, busWrite_input v hi hin, .writeWord v hi h4 hin⟩
  unfold busWrite
  dsimp only
  cases hp : placeAt s.params off with
  | reg r =>
    have hoff := placeAt_eq_reg_iff.1 hp
    cases r with
    | ctrl =>
      refine ⟨_, rfl, ?_⟩
      rw [writeCtrl_of_not_reset (hctrl hoff)]
      exact ⟨hi, rfl, rfl, rfl, rfl, fun _ _ => rfl⟩
    | cmd =>
      rw [hcmd hoff]
      exact ⟨_, writeCmd_executes (s := { s with response := none }) (i := .nop) hi rfl,
        ⟨hi, rfl, rfl, rfl, rfl, fun _ _ => rfl⟩⟩
    | status => exact ⟨_, rfl, ⟨hi, rfl, rfl, rfl, rfl, fun _ _ => rfl⟩⟩
    | blksz | inLen | ivLen => exact hstore _ ⟨hi, rfl, rfl, rfl, rfl, fun _ _ => rfl⟩
    | id | caps | err | cipherInfo | outLen | blocks =>
      exact ⟨_, rfl, ⟨hi, rfl, rfl, rfl, rfl, fun _ _ => rfl⟩⟩
  | ivb => exact absurd (.inl hp) hin
  | inb => exact absurd (.inr hp) hin
  | outb | pastOutb | reserved => exact ⟨_, rfl, ⟨hi, rfl, rfl, rfl, rfl, fun _ _ => rfl⟩⟩

theorem takeEvent_keeps_result {e : Event} {s : State} (hi : s.eng = .idle)
    (hq : e.quiet s.params) : ∃ t, takeEvent e s = .next t ∧ ResultKept s t := by
  cases e with
  | read addr width =>
    obtain ⟨⟨hlo, hhi, hwidth, halign⟩, _⟩ := hq
    simp only [takeEvent, accessOffset_legal hlo hhi hwidth halign]
    refine ⟨_, rfl, ?_⟩
    rw [busRead_eq (.inl hi)]
    exact ⟨hi, rfl, rfl, rfl, rfl, fun _ _ => rfl⟩
  | write addr width v =>
    obtain ⟨⟨hlo, hhi, hwidth, halign⟩, hcmd, hctrl⟩ := hq
    simp only [takeEvent, accessOffset_legal hlo hhi hwidth halign]
    exact busWrite_keeps_result hi halign (fun h => hcmd (by omega)) (fun h => hctrl (by omega))
  | engine => exact ⟨s, engineTurn_of_idle hi, .refl hi⟩
  | powerOn => exact hq.2.elim

theorem step_keeps_result {s : State} (hi : s.eng = .idle) (hq : QuietSchedule s)
    (hne : s.schedule ≠ []) : ∃ t, step s = .next t ∧ ResultKept s t := by
  obtain ⟨e, rest, hs⟩ := List.exists_cons_of_ne_nil hne
  obtain ⟨t, ht, hkept⟩ := takeEvent_keeps_result (s := { s with schedule := rest }) hi
    (hq e (hs ▸ List.mem_cons_self))
  exact ⟨t, (step_of_schedule_cons hs).trans ht, ⟨hkept.idle, hkept.params, hkept.err, hkept.outLen,
    hkept.blocks, hkept.outWindow⟩⟩

/-- Settles O50: each quiet event keeps the result, and so does a run over them. -/
theorem resultsStayReadable : Obligations.ResultsStayReadable := by
  intro s hi hq
  obtain ⟨t, hrun, ⟨hkept, _⟩, hend⟩ := run_over_schedule
    (P := fun u => ResultKept s u ∧ QuietSchedule u)
    (fun u ⟨hkept, hquiet⟩ hne => by
      obtain ⟨t, ht, hkept'⟩ := step_keeps_result hkept.idle hquiet hne
      exact ⟨t, ht, hkept.trans hkept', hquiet.step ht⟩) s ⟨.refl hi, hq⟩
  exact ⟨t, hrun, hkept.idle, hend, hkept.err, hkept.outLen, hkept.blocks, hkept.params,
    fun j _ => hkept.outWindow (outbBase + j) (Nat.le_add_right _ _)⟩

end Sys2Proof.Machine
end

section
/-! The words of the commands (30_encoding.md R90 to R93, R97, R98, R103): a word is its five fields,
a command's word has the fields of its row, and the engine's decoder and its first error are tied to
these fields. -/

namespace Sys2Proof.Machine

/-! ### A word is its fields -/

/-- The value of the word that holds the fields (30_encoding.md R90). -/
def fieldsValue (f : Fields) : Nat :=
  f.op.toNat + 16 * f.scheme.toNat + 128 * f.bit7.toNat + 256 * f.mode.toNat + 2048 * f.high.toNat

theorem fieldsOf_op_toNat (w : Word) : (fieldsOf w).op.toNat = w.toNat % 16 := by
  simp [fieldsOf]

theorem fieldsOf_scheme_toNat (w : Word) : (fieldsOf w).scheme.toNat = w.toNat / 16 % 8 := by
  simp [fieldsOf, Nat.shiftRight_eq_div_pow]

theorem fieldsOf_bit7_toNat (w : Word) : (fieldsOf w).bit7.toNat = w.toNat / 128 % 2 := by
  simp [fieldsOf, Nat.shiftRight_eq_div_pow]

theorem fieldsOf_mode_toNat (w : Word) : (fieldsOf w).mode.toNat = w.toNat / 256 % 8 := by
  simp [fieldsOf, Nat.shiftRight_eq_div_pow]

theorem fieldsOf_high_toNat (w : Word) : (fieldsOf w).high.toNat = w.toNat / 2048 := by
  have hw := w.isLt
  simp only [fieldsOf, BitVec.extractLsb'_toNat, Nat.shiftRight_eq_div_pow]
  omega

theorem toNat_eq_fieldsValue (w : Word) : w.toNat = fieldsValue (fieldsOf w) := by
  unfold fieldsValue
  rw [fieldsOf_op_toNat, fieldsOf_scheme_toNat, fieldsOf_bit7_toNat, fieldsOf_mode_toNat,
    fieldsOf_high_toNat]
  omega

theorem fieldsOf_injective {v w : Word} (h : fieldsOf v = fieldsOf w) : v = w :=
  BitVec.eq_of_toNat_eq (by rw [toNat_eq_fieldsValue v, h, ← toNat_eq_fieldsValue w])

/-! ### SCHEME and MODE -/

/-- The MODE value of a chain mode (30_encoding.md R93). -/
def chainModeField : ChainMode → BitVec 3
  | .ecb => 0
  | .cbc => 1
  | .cfb => 2
  | .ofb => 3
  | .ctr => 4

@[simp] theorem schemeOfField_field (sch : Scheme) : schemeOfField sch.field = some sch := by
  cases sch <;> rfl

@[simp] theorem modeOfField_chainModeField (m : ChainMode) :
    modeOfField (chainModeField m) = some m := by
  cases m <;> rfl

@[simp] theorem chainModeField_ne_gcm (m : ChainMode) : chainModeField m ≠ 5#3 := by
  cases m <;> decide

theorem field_of_schemeOfField {v : BitVec 3} {sch : Scheme} (h : schemeOfField v = some sch) :
    v = sch.field := by
  have hv : ∀ v : BitVec 3, ∀ sch ∈ schemeOfField v, v = sch.field := by decide
  exact hv v sch h

theorem field_of_modeOfField {v : BitVec 3} {m : ChainMode} (h : modeOfField v = some m) :
    v = chainModeField m := by
  have hv : ∀ v : BitVec 3, ∀ m ∈ modeOfField v, v = chainModeField m := by decide
  exact hv v m h

theorem schemeOfField_eq_none_iff (v : BitVec 3) : schemeOfField v = none ↔ v.toNat = 7 := by
  revert v
  decide

theorem modeOfField_eq_none_iff (v : BitVec 3) : modeOfField v = none ↔ 5 ≤ v.toNat := by
  revert v
  decide

/-! ### The commands by families of rows -/

/-- The rows of the opcode map in their families (30_encoding.md R98). -/
theorem instr_byFamily {P : Instr → Prop} (nop : P .nop) (clrstat : P .clrstat)
    (pad : ∀ sch, P (padInstr sch)) (unpad : ∀ sch, P (unpadInstr sch))
    (enc : ∀ m sch, P (encInstr m sch)) (encGcm : P .encGcm)
    (dec : ∀ m sch, P (decInstr m sch)) (decGcm : P .decGcm) : ∀ i, P i
  | .nop => nop
  | .clrstat => clrstat
  | .padNone => pad .none
  | .padZero => pad .zero
  | .padX923 => pad .x923
  | .padIso9797 => pad .iso9797
  | .padIso10126 => pad .iso10126
  | .padPkcs5 => pad .pkcs5
  | .padPkcs7 => pad .pkcs7
  | .unpadNone => unpad .none
  | .unpadZero => unpad .zero
  | .unpadX923 => unpad .x923
  | .unpadIso9797 => unpad .iso9797
  | .unpadIso10126 => unpad .iso10126
  | .unpadPkcs5 => unpad .pkcs5
  | .unpadPkcs7 => unpad .pkcs7
  | .encEcb sch => enc .ecb sch
  | .encCbc sch => enc .cbc sch
  | .encCfb sch => enc .cfb sch
  | .encOfb sch => enc .ofb sch
  | .encCtr sch => enc .ctr sch
  | .encGcm => encGcm
  | .decEcb sch => dec .ecb sch
  | .decCbc sch => dec .cbc sch
  | .decCfb sch => dec .cfb sch
  | .decOfb sch => dec .ofb sch
  | .decCtr sch => dec .ctr sch
  | .decGcm => decGcm

theorem padInstr_fields (sch : Scheme) : (padInstr sch).fields = ⟨1, sch.field, 0, 0, 0⟩ := by
  cases sch <;> rfl

theorem unpadInstr_fields (sch : Scheme) : (unpadInstr sch).fields = ⟨2, sch.field, 0, 0, 0⟩ := by
  cases sch <;> rfl

theorem encInstr_fields (m : ChainMode) (sch : Scheme) :
    (encInstr m sch).fields = ⟨3, sch.field, 0, chainModeField m, 0⟩ := by
  cases m <;> rfl

theorem decInstr_fields (m : ChainMode) (sch : Scheme) :
    (decInstr m sch).fields = ⟨4, sch.field, 0, chainModeField m, 0⟩ := by
  cases m <;> rfl

/-! ### The word of a command -/

/-- The law of the command words under Laws/PerInstr, for every command. -/
theorem encodingFields : ∀ i : Instr, Laws.EncodingFields.Statement i
  | .nop => Laws.EncodingFields.nop
  | .clrstat => Laws.EncodingFields.clrstat
  | .padNone => Laws.EncodingFields.padNone
  | .padZero => Laws.EncodingFields.padZero
  | .padX923 => Laws.EncodingFields.padX923
  | .padIso9797 => Laws.EncodingFields.padIso9797
  | .padIso10126 => Laws.EncodingFields.padIso10126
  | .padPkcs5 => Laws.EncodingFields.padPkcs5
  | .padPkcs7 => Laws.EncodingFields.padPkcs7
  | .unpadNone => Laws.EncodingFields.unpadNone
  | .unpadZero => Laws.EncodingFields.unpadZero
  | .unpadX923 => Laws.EncodingFields.unpadX923
  | .unpadIso9797 => Laws.EncodingFields.unpadIso9797
  | .unpadIso10126 => Laws.EncodingFields.unpadIso10126
  | .unpadPkcs5 => Laws.EncodingFields.unpadPkcs5
  | .unpadPkcs7 => Laws.EncodingFields.unpadPkcs7
  | .encEcb sch => Laws.EncodingFields.encEcb sch
  | .encCbc sch => Laws.EncodingFields.encCbc sch
  | .encCfb sch => Laws.EncodingFields.encCfb sch
  | .encOfb sch => Laws.EncodingFields.encOfb sch
  | .encCtr sch => Laws.EncodingFields.encCtr sch
  | .encGcm => Laws.EncodingFields.encGcm
  | .decEcb sch => Laws.EncodingFields.decEcb sch
  | .decCbc sch => Laws.EncodingFields.decCbc sch
  | .decCfb sch => Laws.EncodingFields.decCfb sch
  | .decOfb sch => Laws.EncodingFields.decOfb sch
  | .decCtr sch => Laws.EncodingFields.decCtr sch
  | .decGcm => Laws.EncodingFields.decGcm

theorem fieldsOf_encode (i : Instr) : fieldsOf (encode i) = i.fields := (encodingFields i).1

theorem reserved_fields_zero (i : Instr) : i.fields.bit7 = 0 ∧ i.fields.high = 0 := by
  have h := (encodingFields i).2
  simp only [Fields.wellFormed, Fields.reservedZero, Bool.and_eq_true, decide_eq_true_eq] at h
  tauto

theorem encode_toNat (i : Instr) : (encode i).toNat =
    i.fields.op.toNat + 16 * i.fields.scheme.toNat + 256 * i.fields.mode.toNat := by
  obtain ⟨hbit7, hhigh⟩ := reserved_fields_zero i
  rw [toNat_eq_fieldsValue, fieldsOf_encode, fieldsValue, hbit7, hhigh]
  rfl

theorem encode_eq_of_fieldsOf {w : Word} {i : Instr} (h : fieldsOf w = i.fields) : encode i = w :=
  fieldsOf_injective ((fieldsOf_encode i).trans h.symm)

/-! ### Decoding a command's word -/

theorem decode_of_decodeEngine {w : Word} {i : Instr} (h : decodeEngine w = .ok i) :
    decode w = .ok i := by
  have h0 : w ≠ 0x00000000 := by rintro rfl; cases h
  have h5 : w ≠ 0x00000005 := by rintro rfl; cases h
  rw [decode, decodeImmediate_eq_none h0 h5]
  exact h

theorem decode_encode (i : Instr) : decode (encode i) = .ok i := by
  induction i using instr_byFamily with
  | nop | clrstat => rfl
  | pad sch =>
    exact decode_of_decodeEngine (by simp [decodeEngine, fieldsOf_encode, padInstr_fields])
  | unpad sch =>
    exact decode_of_decodeEngine (by simp [decodeEngine, fieldsOf_encode, unpadInstr_fields])
  | enc m sch =>
    exact decode_of_decodeEngine
      (by simp [decodeEngine, decodeMode, fieldsOf_encode, encInstr_fields])
  | dec m sch =>
    exact decode_of_decodeEngine
      (by simp [decodeEngine, decodeMode, fieldsOf_encode, decInstr_fields])
  | encGcm | decGcm => rfl

theorem encode_injective : Function.Injective encode := fun i j h =>
  Except.ok.inj ((decode_encode i).symm.trans ((congrArg decode h).trans (decode_encode j)))

/-- Settles O1: the value of a word is that of its fields, and decoding is a left inverse. -/
theorem encodeThenDecode : Obligations.EncodeThenDecode :=
  ⟨encode_toNat, fun _ _ h => encode_injective h, decode_encode⟩

/-! ### The fields of a word that decodes -/

theorem decodeMode_ok {f : Fields} {sch : Scheme} {row : ChainMode → Scheme → Instr}
    {gcm i : Instr} (h : decodeMode f sch row gcm = .ok i) :
    (∃ m, f.mode = chainModeField m ∧ i = row m sch) ∨
      (f.mode = 5 ∧ sch = .none ∧ i = gcm) := by
  unfold decodeMode at h
  split at h
  next hgcm =>
    split at h
    next hsch => exact .inr ⟨hgcm, hsch, (Except.ok.inj h).symm⟩
    next => cases h
  next =>
    split at h
    next m hm => exact .inl ⟨m, field_of_modeOfField hm, (Except.ok.inj h).symm⟩
    next => cases h

theorem op_cases {op : BitVec 4} (h6 : ¬6 ≤ op.toNat) (h05 : ¬(op = 0 ∨ op = 5)) :
    op = 1 ∨ op = 2 ∨ op = 3 ∨ op = 4 := by
  revert op
  decide

theorem fieldsOf_of_decodeEngine {w : Word} {i : Instr} (h : decodeEngine w = .ok i) :
    fieldsOf w = i.fields := by
  unfold decodeEngine at h
  generalize fieldsOf w = f at h ⊢
  obtain ⟨op, scheme, bit7, mode, high⟩ := f
  dsimp only at h
  split at h
  next => cases h
  next h6 =>
  split at h
  next => cases h
  next h05 =>
  split at h
  next => cases h
  next hreserved =>
  obtain ⟨rfl, rfl⟩ := And.imp not_not.1 not_not.1 (not_or.1 hreserved)
  split at h
  next => cases h
  next sch hsch =>
  obtain rfl := field_of_schemeOfField hsch
  split_ifs at h with h1 hm h2 hm h3
  · cases h; rw [padInstr_fields, h1, hm]
  · cases h; rw [unpadInstr_fields, h2, hm]
  · rcases decodeMode_ok h with ⟨m, hm, rfl⟩ | ⟨hm, rfl, rfl⟩
    · rw [encInstr_fields, h3, ← hm]
    · rw [h3, show mode = 5 from hm]; rfl
  · obtain rfl := ((op_cases h6 h05).resolve_left h1).resolve_left h2 |>.resolve_left h3
    rcases decodeMode_ok h with ⟨m, hm, rfl⟩ | ⟨hm, rfl, rfl⟩
    · rw [decInstr_fields, ← hm]
    · rw [show mode = 5 from hm]; rfl

theorem encode_of_decodeImmediate {w : Word} {i : Instr} (h : decodeImmediate w = some i) :
    encode i = w := by
  unfold decodeImmediate at h
  split_ifs at h with h0 h5
  · cases h; exact h0.symm
  · cases h; exact h5.symm

theorem encode_of_decode {w : Word} {i : Instr} (h : decode w = .ok i) : encode i = w := by
  rcases decode_ok_cases h with ⟨himm, _⟩ | ⟨heng, _⟩
  · exact encode_of_decodeImmediate himm
  · exact encode_eq_of_fieldsOf (fieldsOf_of_decodeEngine heng)

theorem decode_eq_ok_iff {w : Word} {i : Instr} : decode w = .ok i ↔ encode i = w :=
  ⟨encode_of_decode, fun h => h ▸ decode_encode i⟩

/-- Settles O2: a word that decodes has the fields of its command's row, so it is that command's
word. -/
theorem decodeThenEncode : Obligations.DecodeThenEncode := fun _ _ => encode_of_decode

/-! ### The first error of a word -/

/-- The error that a decoding reports, if any. -/
def reportedError : Except Err Instr → Option Err
  | .ok _ => none
  | .error e => some e

theorem reportedError_padMode (mode : BitVec 3) (i : Instr) :
    reportedError (if mode = 0 then .ok i else .error .modeNotZero) =
      if mode.toNat ≠ 0 then some .modeNotZero else none := by
  rw [apply_ite reportedError, ite_not]
  exact ite_congr (by simp [BitVec.toNat_eq]) (fun _ => rfl) fun _ => rfl

theorem reportedError_decodeMode (f : Fields) (sch : Scheme)
    (row : ChainMode → Scheme → Instr) (gcm : Instr) :
    reportedError (decodeMode f sch row gcm) =
      if f.mode.toNat = 6 ∨ f.mode.toNat = 7 then some .illegalMode
      else if f.mode.toNat = 5 ∧ sch.field.toNat ≠ 0 then some .gcmScheme
      else none := by
  have hlt := f.mode.isLt
  unfold decodeMode
  split
  next hgcm => cases sch <;> simp [hgcm, reportedError, Scheme.field]
  next hgcm =>
    have hne : f.mode.toNat ≠ 5 := fun h => hgcm (BitVec.eq_of_toNat_eq h)
    cases hm : modeOfField f.mode with
    | none =>
      have hge := (modeOfField_eq_none_iff _).1 hm
      rw [if_pos (by omega)]
      rfl
    | some m =>
      have hge := mt (modeOfField_eq_none_iff f.mode).2 (by simp [hm])
      rw [if_neg (by omega), if_neg (by omega)]
      rfl

/-- The engine's decoder reports the first check of 30_encoding.md R97 that holds: one step of the
proof for each check, in the rule's order. -/
theorem reportedError_decodeEngine (w : Word) :
    reportedError (decodeEngine w) = firstWordError w.toNat := by
  unfold decodeEngine firstWordError
  simp only [← fieldsOf_op_toNat, ← fieldsOf_scheme_toNat, ← fieldsOf_bit7_toNat,
    ← fieldsOf_mode_toNat, ← fieldsOf_high_toNat]
  generalize fieldsOf w = f
  rw [apply_ite reportedError]
  refine ite_congr rfl (fun _ => rfl) fun h6 => ?_
  rw [apply_ite reportedError]
  refine ite_congr (by simp [BitVec.toNat_eq]) (fun _ => rfl) fun h05 => ?_
  rw [apply_ite reportedError]
  refine ite_congr (by simp [BitVec.toNat_eq]) (fun _ => rfl) fun _ => ?_
  cases hs : schemeOfField f.scheme with
  | none =>
    rw [if_pos ((schemeOfField_eq_none_iff _).1 hs)]
    rfl
  | some sch =>
    rw [if_neg (mt (schemeOfField_eq_none_iff f.scheme).2 (by simp [hs]))]
    have hfield := field_of_schemeOfField hs
    rcases op_cases h6 (by simpa [BitVec.toNat_eq] using h05) with hop | hop | hop | hop
    · simpa [hop] using reportedError_padMode f.mode (padInstr sch)
    · simpa [hop] using reportedError_padMode f.mode (unpadInstr sch)
    · simp [hop, hfield, reportedError_decodeMode]
    · simp [hop, hfield, reportedError_decodeMode]

theorem decodeEngine_eq_error_iff {w : Word} {e : Err} :
    decodeEngine w = .error e ↔ firstWordError w.toNat = some e := by
  rw [← reportedError_decodeEngine]
  cases decodeEngine w <;> simp [reportedError]

theorem exists_encode_of_firstWordError_none {w : Word} (h : firstWordError w.toNat = none) :
    ∃ i, decodeEngine w = .ok i ∧ encode i = w := by
  cases hd : decodeEngine w with
  | ok i => exact ⟨i, rfl, encode_eq_of_fieldsOf (fieldsOf_of_decodeEngine hd)⟩
  | error e => rw [decodeEngine_eq_error_iff.1 hd] at h; cases h

theorem engineTurn_of_busy_error {s : State} {w : Word} {e : Err} (h : s.eng = .busy w)
    (hd : decodeEngine w = .error e) : engineTurn s = .next (raiseError e s) := by
  unfold engineTurn
  rw [h]
  simp only [engineStep, hd]

/-- Settles O5: the engine's decoder reports the first error of the word's bits, and a word with
none is the word of the one command that the decoder gives. -/
theorem engineDecodeOrder : Obligations.EngineDecodeOrder := by
  intro s w hb
  cases hw : firstWordError w.toNat with
  | some e =>
    exact ⟨_, engineTurn_of_busy_error hb (decodeEngine_eq_error_iff.2 hw), raiseError_failed s e,
      ⟨rfl, rfl⟩⟩
  | none =>
    obtain ⟨i, hd, hi⟩ := exists_encode_of_firstWordError_none hw
    exact ⟨i, hi, fun j hj => encode_injective (hj.trans hi.symm), engineTurn_of_busy hb hd⟩

end Sys2Proof.Machine
end

section
/-! The opcode table (30_encoding.md R98): what a row reads, the decoder of the table alone, and the
words of the opcode map. -/

namespace Sys2Proof.Machine

/-! ### The table -/

/-- The padding schemes, in the order of their SCHEME values (30_encoding.md R92). -/
def allSchemes : List Scheme := [.none, .zero, .x923, .iso9797, .iso10126, .pkcs5, .pkcs7]

theorem mem_allSchemes (sch : Scheme) : sch ∈ allSchemes := by
  cases sch <;> decide

/-- The commands of a row: one for each scheme if the row is masked, else the one that its word
fixes (30_encoding.md R98). -/
def rowCommands (r : TableRow) : List Instr :=
  if r.masked then allSchemes.map r.command else [r.command .none]

/-- The commands of the table, row by row. -/
def tableCommands : List Instr := opcodeRows.flatMap rowCommands

theorem mem_tableCommands (i : Instr) : i ∈ tableCommands := by
  induction i using instr_byFamily with
  | nop | clrstat | encGcm | decGcm => decide
  | pad sch | unpad sch => cases sch <;> decide
  | enc m sch | dec m sch => cases m <;> cases sch <;> decide

theorem nodup_tableCommands : tableCommands.Nodup := by
  decide

/-! ### Reading a row -/

/-- The words of the table, checked row by row. -/
theorem opcodeRows_words : ∀ r ∈ opcodeRows,
    if r.masked then ∀ sch ∈ allSchemes, encode (r.command sch) &&& 0xFFFFFF8F = r.pattern
    else encode (r.command .none) = r.pattern := by
  decide

theorem opcodeRows_scheme : ∀ r ∈ opcodeRows, r.masked = true → ∀ sch ∈ allSchemes,
    (r.command sch).fields.scheme = sch.field := by
  decide

theorem eq_of_mask_of_scheme {v w : Word} (hmask : v &&& 0xFFFFFF8F = w &&& 0xFFFFFF8F)
    (hscheme : v.extractLsb' 4 3 = w.extractLsb' 4 3) : v = w := by
  have hbit : ∀ i < 32, ¬(4 ≤ i ∧ i < 7) → (0xFFFFFF8F : Word).getLsbD i = true := by decide
  refine BitVec.eq_of_getLsbD_eq fun i hi => ?_
  by_cases hs : 4 ≤ i ∧ i < 7
  · have h := congrArg (·.getLsbD (i - 4)) hscheme
    simpa [show i - 4 < 3 by omega, show 4 + (i - 4) = i by omega] using h
  · have h := congrArg (·.getLsbD i) hmask
    simpa only [BitVec.getLsbD_and, hbit i hi hs, Bool.and_true] using h

theorem row_read_eq_some_iff {r : TableRow} (hr : r ∈ opcodeRows) {w : Word} {i : Instr} :
    r.read w = some i ↔ i ∈ rowCommands r ∧ encode i = w := by
  have hwords := opcodeRows_words r hr
  unfold TableRow.read rowCommands
  split_ifs at hwords ⊢ with hm hw hw
  · have hscheme (sch : Scheme) : (encode (r.command sch)).extractLsb' 4 3 = sch.field :=
      (congrArg Fields.scheme (fieldsOf_encode _)).trans
        (opcodeRows_scheme r hr hm sch (mem_allSchemes sch))
    simp only [Option.map_eq_some_iff, List.mem_map]
    constructor
    · rintro ⟨sch, hsch, rfl⟩
      have hmask := hwords sch (mem_allSchemes sch)
      exact ⟨⟨sch, mem_allSchemes sch, rfl⟩, eq_of_mask_of_scheme (hmask.trans hw.symm)
        ((hscheme sch).trans (field_of_schemeOfField hsch).symm)⟩
    · rintro ⟨⟨sch, _, rfl⟩, rfl⟩
      exact ⟨sch, by rw [hscheme, schemeOfField_field], rfl⟩
  · refine ⟨fun h => (nomatch h), fun ⟨hi, he⟩ => absurd ?_ hw⟩
    obtain ⟨sch, hsch, rfl⟩ := List.mem_map.1 hi
    exact he ▸ hwords sch hsch
  · rw [hw, ← hwords, Option.some_inj, List.mem_singleton]
    exact ⟨fun h => ⟨h.symm, h ▸ rfl⟩, fun h => h.1.symm⟩
  · refine ⟨fun h => (nomatch h), fun ⟨hi, he⟩ => absurd ?_ hw⟩
    rw [← he, List.mem_singleton.1 hi, hwords]

/-! ### The table's decoder -/

theorem encode_of_decodeByTable {w : Word} {i : Instr} (h : decodeByTable w = some i) :
    encode i = w := by
  obtain ⟨r, hr, hread⟩ := List.exists_of_findSome?_eq_some h
  exact ((row_read_eq_some_iff hr).1 hread).2

/-- Some row reads the word of a command, and a row that reads it gives this command, since no other
has its word. -/
theorem decodeByTable_encode (i : Instr) : decodeByTable (encode i) = some i := by
  obtain ⟨r, hr, hi⟩ := List.mem_flatMap.1 (mem_tableCommands i)
  have hread : r.read (encode i) = some i := (row_read_eq_some_iff hr).2 ⟨hi, rfl⟩
  have hsome : (decodeByTable (encode i)).isSome :=
    List.findSome?_isSome_iff.2 ⟨r, hr, by rw [hread]; rfl⟩
  obtain ⟨j, hj⟩ := Option.isSome_iff_exists.1 hsome
  rw [hj, encode_injective (encode_of_decodeByTable hj)]

theorem decodeByTable_eq_some_iff {w : Word} {i : Instr} :
    decodeByTable w = some i ↔ decode w = .ok i :=
  ⟨fun h => decode_eq_ok_iff.2 (encode_of_decodeByTable h),
    fun h => encode_of_decode h ▸ decodeByTable_encode i⟩

theorem decodeEngine_of_decode_error {w : Word} {e : Err} (h : decode w = .error e) :
    decodeEngine w = .error e := by
  unfold decode at h
  split at h
  next => cases h
  next => exact h

theorem decodeByTable_eq_none_iff (w : Word) : decodeByTable w = none ↔
    ∃ e, firstWordError w.toNat = some e ∧ decode w = .error e := by
  simp only [Option.eq_none_iff_forall_ne_some, ne_eq, decodeByTable_eq_some_iff]
  constructor
  · intro hnone
    cases hd : decode w with
    | ok i => exact absurd hd (hnone i)
    | error e =>
      exact ⟨e, decodeEngine_eq_error_iff.1 (decodeEngine_of_decode_error hd), rfl⟩
  · rintro ⟨e, _, herror⟩ i hok
    cases herror.symm.trans hok

/-- Settles O3: the table's commands are all the commands, each once, and a row reads the words of
its commands and no others. -/
theorem tableDecoderAgrees : Obligations.TableDecoderAgrees := by
  refine ⟨rfl, fun _ _ => decodeByTable_eq_some_iff, decodeByTable_eq_none_iff,
    tableCommands.map encode, nodup_tableCommands.map encode_injective, rfl, fun w => ?_⟩
  simp only [List.mem_map, mem_tableCommands, true_and, decode_eq_ok_iff]

/-! ### The opcode map, word by word -/

theorem encode_encInstr (m : ChainMode) (sch : Scheme) : encode (encInstr m sch) =
    encode (encInstr m .none) + (sch.field.setWidth 32 <<< 4) := by
  cases m <;> cases sch <;> rfl

theorem encode_decInstr (m : ChainMode) (sch : Scheme) : encode (decInstr m sch) =
    encode (decInstr m .none) + (sch.field.setWidth 32 <<< 4) := by
  cases m <;> cases sch <;> rfl

theorem decode_encRow (m : ChainMode) (sch : Scheme) :
    decode (encode (encInstr m .none) + (sch.field.setWidth 32 <<< 4)) = .ok (encInstr m sch) := by
  rw [← encode_encInstr, decode_encode]

theorem decode_decRow (m : ChainMode) (sch : Scheme) :
    decode (encode (decInstr m .none) + (sch.field.setWidth 32 <<< 4)) = .ok (decInstr m sch) := by
  rw [← encode_decInstr, decode_encode]

/-- Settles O4: each fixed word is the word of its row's command, and each word of a masked row is
the row's match with the SCHEME value added. -/
theorem opcodeMapDecodes : Obligations.OpcodeMapDecodes := by
  refine ⟨decode_encode .nop, decode_encode .clrstat, decode_encode .padNone,
    decode_encode .padZero, decode_encode .padX923, decode_encode .padIso9797,
    decode_encode .padIso10126, decode_encode .padPkcs5, decode_encode .padPkcs7,
    decode_encode .unpadNone, decode_encode .unpadZero, decode_encode .unpadX923,
    decode_encode .unpadIso9797, decode_encode .unpadIso10126, decode_encode .unpadPkcs5,
    decode_encode .unpadPkcs7, decode_encode .encGcm, decode_encode .decGcm, fun p hp => ?_⟩
  have hfield : p.2 = p.1.field.setWidth 32 <<< 4 := by
    revert p
    decide
  rw [hfield]
  exact ⟨decode_encRow .ecb p.1, decode_encRow .cbc p.1, decode_encRow .cfb p.1,
    decode_encRow .ofb p.1, decode_encRow .ctr p.1, decode_decRow .ecb p.1,
    decode_decRow .cbc p.1, decode_decRow .cfb p.1, decode_decRow .ofb p.1,
    decode_decRow .ctr p.1⟩

end Sys2Proof.Machine
end

section
/-! The pad and unpad functions as functions of byte strings (41_padding.md R120 to R143): one lemma
per function on what it makes of a string, then the laws that relate the two directions. -/

namespace Sys2Proof.Machine

/-! ### The pad count and the count byte -/

theorem padCount_pos (L : Nat) {bs : Nat} (h : 1 ≤ bs) : 1 ≤ padCount L bs := by
  have := Nat.mod_lt L h
  unfold padCount
  omega

theorem padCount_le (L bs : Nat) : padCount L bs ≤ bs := Nat.sub_le _ _

theorem add_padCount_mod (L : Nat) {bs : Nat} (h : 1 ≤ bs) : (L + padCount L bs) % bs = 0 := by
  have hlt := Nat.mod_lt L h
  have hdiv := Nat.div_add_mod L bs
  have hsum : L + padCount L bs = bs * (L / bs + 1) := by
    unfold padCount
    rw [Nat.mul_add, Nat.mul_one]
    omega
  rw [hsum, Nat.mul_mod_right]

/-- The one valid case whose count does not fit in a byte (41_padding.md R121). -/
theorem padCount_eq_256_iff (L : Nat) {bs : Nat} (h : bs ≤ 256) :
    padCount L bs = 256 ↔ bs = 256 ∧ L % 256 = 0 := by
  unfold padCount
  constructor
  · intro hn
    obtain rfl : bs = 256 := by omega
    omega
  · rintro ⟨rfl, hL⟩
    omega

theorem countByte_toNat (n : Nat) : (countByte n).toNat = n % 256 := by simp [countByte]

/-- The count byte with the modulus of 41_padding.md R121 written out. -/
theorem ofNat_mod_eq_countByte (n : Nat) : BitVec.ofNat 8 (n % 256) = countByte n :=
  BitVec.eq_of_toNat_eq (by simp [countByte])

/-! ### ZeroStrip -/

/-- ZeroStrip is Mathlib's removal of a longest suffix. -/
theorem zeroStrip_eq_rdropWhile (X : Bytes) : zeroStrip X = X.rdropWhile (· == 0x00) := rfl

theorem zeroStrip_append_zeros (X : Bytes) (k : Nat) :
    zeroStrip (X ++ List.replicate k 0x00) = zeroStrip X := by
  induction k with
  | zero => simp
  | succ k ih =>
    rw [List.replicate_succ', ← List.append_assoc, zeroStrip_eq_rdropWhile,
      List.rdropWhile_concat_pos _ _ _ rfl]
    exact ih

theorem zeroStrip_of_getLast? {X : Bytes} (h : X.getLast? ≠ some 0x00) : zeroStrip X = X := by
  rw [zeroStrip_eq_rdropWhile, List.rdropWhile_eq_self_iff]
  intro hne hzero
  rw [List.getLast?_eq_some_getLast hne, eq_of_beq hzero] at h
  exact h rfl

theorem zeroStrip_getLast? (X : Bytes) : (zeroStrip X).getLast? ≠ some 0x00 := by
  intro h
  have hne : X.rdropWhile (· == 0x00) ≠ [] := fun hnil => by
    rw [zeroStrip_eq_rdropWhile, hnil] at h
    cases h
  have hlast := List.rdropWhile_last_not _ X hne
  rw [zeroStrip_eq_rdropWhile, List.getLast?_eq_some_getLast hne] at h
  exact hlast (beq_iff_eq.2 (Option.some.inj h))

/-- What ZeroStrip removes is a run of zeros. -/
theorem zeroStrip_append_removed (X : Bytes) : ∃ j, zeroStrip X ++ List.replicate j 0x00 = X := by
  have hzeros : X.rtakeWhile (· == 0x00) =
      List.replicate (X.rtakeWhile (· == 0x00)).length 0x00 :=
    List.eq_replicate_of_mem fun b hb =>
      beq_iff_eq.1 (List.mem_rtakeWhile_imp (p := fun b => b == 0x00) hb)
  refine ⟨(X.rtakeWhile (· == 0x00)).length, ?_⟩
  rw [← hzeros, zeroStrip_eq_rdropWhile]
  exact List.rdropWhile_append_rtakeWhile

/-! ### The unpad functions -/

theorem countUnpad_of_getLast? {X : Bytes} {b : Byte} (h : X.getLast? = some b) :
    countUnpad X = if b.toNat = 0 then (X, true)
      else if b.toNat > X.length then ([], true)
      else (X.take (X.length - b.toNat), false) := by
  unfold countUnpad
  rw [h]

/-- A last byte that counts itself and the bytes `F` before it leaves what stands before them. -/
theorem countUnpad_append_count (D F : Bytes) {b : Byte} (hb : b.toNat = F.length + 1) :
    countUnpad (D ++ F ++ [b]) = (D, false) := by
  have hlen : (D ++ F ++ [b]).length = D.length + (F.length + 1) := by simp
  rw [countUnpad_of_getLast? List.getLast?_concat, if_neg (by omega), if_neg (by omega), hb, hlen,
    Nat.add_sub_cancel, List.append_assoc, List.take_left' rfl]

theorem countUnpad_append_zero (X : Bytes) : countUnpad (X ++ [0x00]) = (X ++ [0x00], true) :=
  (countUnpad_of_getLast? List.getLast?_concat).trans (if_pos rfl)

theorem unpadIso9797Fn_of_nil {X : Bytes} (h : zeroStrip X = []) :
    unpadIso9797Fn X = ([], true) := by
  unfold unpadIso9797Fn
  rw [h]
  rfl

theorem unpadIso9797Fn_of_concat {X Z : Bytes} {b : Byte} (h : zeroStrip X = Z ++ [b]) :
    unpadIso9797Fn X = (Z, b != 0x80) := by
  unfold unpadIso9797Fn
  simp [h]

/-- The count schemes of 41_padding.md R135, R138 and R140 share one unpad function. -/
theorem unpadFn_eq_countUnpad {sch : Scheme} (h : sch ∈ [Scheme.x923, .iso10126, .pkcs7]) :
    unpadFn sch = countUnpad := by
  simp only [List.mem_cons, List.not_mem_nil, or_false] at h
  obtain rfl | rfl | rfl := h <;> rfl

/-! ### The pad functions -/

/-- PKCS #5 is PKCS #7 with block size 8, whatever the block size given (41_padding.md R128). -/
theorem padFn_pkcs5_eq_pkcs7 (D R : Bytes) (bs : Nat) :
    padFn .pkcs5 D bs R = padFn .pkcs7 D 8 [] := rfl

/-- The three count schemes differ only in the n - 1 bytes before the count byte. -/
theorem padFn_eq_append_count {sch : Scheme} (h : sch ∈ [Scheme.x923, .iso10126, .pkcs7])
    (D : Bytes) {R : Bytes} {bs : Nat} (hbs : 1 ≤ bs) (hR : R.length = fillCount sch D.length bs) :
    ∃ F : Bytes, F.length + 1 = padCount D.length bs ∧
      padFn sch D bs R = D ++ F ++ [countByte (padCount D.length bs)] := by
  have hn := Nat.sub_add_cancel (padCount_pos D.length hbs)
  simp only [List.mem_cons, List.not_mem_nil, or_false] at h
  obtain rfl | rfl | rfl := h
  · exact ⟨List.replicate (padCount D.length bs - 1) 0x00, by simpa using hn, rfl⟩
  · exact ⟨R, by rw [hR]; exact hn, rfl⟩
  · refine ⟨List.replicate (padCount D.length bs - 1) (countByte (padCount D.length bs)),
      by simpa using hn, ?_⟩
    rw [List.append_assoc, ← List.replicate_succ', hn]
    rfl

theorem padFn_count_length {sch : Scheme} (h : sch ∈ [Scheme.x923, .iso10126, .pkcs7])
    (D : Bytes) {R : Bytes} {bs : Nat} (hbs : 1 ≤ bs) (hR : R.length = fillCount sch D.length bs) :
    (padFn sch D bs R).length = D.length + padCount D.length bs := by
  obtain ⟨F, hF, hP⟩ := padFn_eq_append_count h D hbs hR
  rw [hP, ← hF]
  simp

theorem padZeroFn_length (D : Bytes) (bs : Nat) :
    (padZeroFn D bs).length = D.length + padCount D.length bs := by simp [padZeroFn]

theorem padIso9797Fn_length (D : Bytes) (bs : Nat) :
    (padIso9797Fn D bs).length = D.length + 1 + padCount (D.length + 1) bs := by
  simp [padIso9797Fn, padZeroFn_length]

/-! ### The lengths of padded data -/

/-- Settles O51: a padded string is the data, the marker of ISO 9797 and a pad count, and a length
and its pad count make a multiple of the block size. -/
theorem padLengthLaw : Obligations.PadLengthLaw := by
  intro sch D R bs hnone hbs _ h5 hR
  have hpos := padCount_pos D.length hbs
  have hmod := add_padCount_mod D.length hbs
  have count (h : sch ∈ [Scheme.x923, .iso10126, .pkcs7]) := padFn_count_length h D hbs hR
  cases sch with
  | none => exact absurd rfl hnone
  | zero =>
    have hlen : (padFn .zero D bs R).length = _ := padZeroFn_length D bs
    simp only [hlen]
    exact ⟨hmod, by omega, fun _ => rfl, by simp, by simp⟩
  | x923 | iso10126 | pkcs7 =>
    simp only [count (by simp)]
    exact ⟨hmod, by omega, fun _ => rfl, by simp, by simp⟩
  | iso9797 =>
    have hlen : (padFn .iso9797 D bs R).length = _ := padIso9797Fn_length D bs
    simp only [hlen]
    exact ⟨add_padCount_mod (D.length + 1) hbs, by omega, by simp, fun _ => rfl, by simp⟩
  | pkcs5 =>
    obtain rfl := h5 rfl
    have hlen : (padFn .pkcs7 D 8 []).length = _ := padFn_count_length (by simp) D hbs rfl
    simp only [padFn_pkcs5_eq_pkcs7, hlen]
    exact ⟨hmod, by omega, by simp, by simp, fun _ => rfl⟩

/-! ### The round trips -/

/-- Data that does not end in 0x00 comes back from any number of zeros (41_padding.md R133). -/
theorem zeroStrip_append_zeros_of_getLast? {D : Bytes} (h : D.getLast? ≠ some 0x00) (k : Nat) :
    zeroStrip (D ++ List.replicate k 0x00) = D := by
  rw [zeroStrip_append_zeros, zeroStrip_of_getLast? h]

theorem unpadIso9797Fn_padIso9797Fn (D : Bytes) (bs : Nat) :
    unpadIso9797Fn (padIso9797Fn D bs) = (D, false) :=
  unpadIso9797Fn_of_concat (zeroStrip_append_zeros_of_getLast? (by simp) _)

/-- With a count scheme the round trip turns on whether the count fits in its byte
(41_padding.md R143). -/
theorem unpadFn_padFn_count {sch : Scheme} (h : sch ∈ [Scheme.x923, .iso10126, .pkcs7])
    (D : Bytes) {R : Bytes} {bs : Nat} (hbs : 1 ≤ bs) (h256 : bs ≤ 256)
    (hR : R.length = fillCount sch D.length bs) :
    unpadFn sch (padFn sch D bs R) =
      if padCount D.length bs = 256 then (padFn sch D bs R, true) else (D, false) := by
  obtain ⟨F, hF, hP⟩ := padFn_eq_append_count h D hbs hR
  rw [unpadFn_eq_countUnpad h, hP]
  split
  · next hn =>
    rw [hn]
    exact countUnpad_append_zero (D ++ F)
  · next hn =>
    have hle := padCount_le D.length bs
    have hbyte : (countByte (padCount D.length bs)).toNat = F.length + 1 := by
      rw [countByte_toNat]
      omega
    exact countUnpad_append_count D F hbyte

theorem unpadFn_padFn_pkcs5 (D R : Bytes) (bs : Nat) :
    unpadFn .pkcs5 (padFn .pkcs5 D bs R) = (D, false) := by
  have hle := padCount_le D.length 8
  calc unpadFn .pkcs5 (padFn .pkcs5 D bs R)
      = unpadFn .pkcs7 (padFn .pkcs7 D 8 []) := rfl
    _ = (D, false) := by
      rw [unpadFn_padFn_count (by simp) D (by omega) (by omega) rfl, if_neg (by omega)]

/-- Settles O52: the zeros are what ZeroStrip removes, the marker of ISO 9797 stands right before
them, and a count that fits in its byte counts what was appended. -/
theorem unpadInvertsPad : Obligations.UnpadInvertsPad := by
  intro sch D R bs hbs h256 hR hrec
  have count (h : sch ∈ [Scheme.x923, .iso10126, .pkcs7]) (hr : bs ≤ 255 ∨ D.length % bs ≠ 0) :
      unpadFn sch (padFn sch D bs R) = (D, false) := by
    rw [unpadFn_padFn_count h D hbs h256 hR, if_neg]
    rw [padCount_eq_256_iff _ h256]
    rintro ⟨rfl, hL⟩
    omega
  cases sch with
  | none => rfl
  | zero =>
    have hlast : D.getLast? ≠ some 0x00 := by
      rcases hrec with rfl | h
      · simp
      · exact h
    exact congrArg (·, false) (zeroStrip_append_zeros_of_getLast? hlast _)
  | x923 | iso10126 | pkcs7 => exact count (by simp) hrec
  | iso9797 => exact unpadIso9797Fn_padIso9797Fn D bs
  | pkcs5 => exact unpadFn_padFn_pkcs5 D R bs

/-- Settles O53: the zeros of the data and those of the padding are one run, which ZeroStrip
removes. -/
theorem zeroPaddingLossy : Obligations.ZeroPaddingLossy := by
  intro D k bs _ _ _ hlast
  show (zeroStrip (D ++ List.replicate k 0x00 ++ List.replicate _ 0x00), false) = (D, false)
  rw [zeroStrip_append_zeros, zeroStrip_append_zeros_of_getLast? hlast]

/-- Settles O54: the count is 256 in exactly this case, and 256 mod 256 is the count byte 0x00. -/
theorem blockSize256 : Obligations.BlockSize256 := by
  refine ⟨fun sch D R bs h hbs h256 hR => ?_, fun D => unpadFn_padFn_pkcs5 D [] 8⟩
  have htrip := unpadFn_padFn_count h D hbs h256 hR
  have hiff := padCount_eq_256_iff D.length h256
  refine ⟨fun hcase => ?_, fun hne => ?_, fun hcase => ?_⟩
  · have hn := hiff.2 hcase
    obtain ⟨F, _, hP⟩ := padFn_eq_append_count h D hbs hR
    refine ⟨?_, ?_, by rw [htrip, if_pos hn]⟩
    · rw [hP, hn]
      exact List.getLast?_concat
    · rw [padFn_count_length h D hbs hR, hn]
  · by_contra hcase
    exact hne (by rw [htrip, if_neg (mt hiff.1 hcase)])
  · rw [htrip, if_pos (hiff.2 hcase)]
    exact fun heq => absurd (congrArg Prod.snd heq) (by simp)

end Sys2Proof.Machine
end

section
/-! The PAD and UNPAD commands (41_padding.md R122 to R140): what each of the two command flows
leaves, and from it what each command leaves. -/

namespace Sys2Proof.Machine

/-! ### The checks and the operand -/

/-- The checks in the order of 41_padding.md R122 are the model's. -/
theorem padRefusal_eq_padChecks (sch : Scheme) (s : State) :
    padRefusal sch s = padChecks sch s := by
  unfold padRefusal padChecks firstError checkInLen checkBlockSize checkPkcs5
  split_ifs <;> rfl

theorem unpadRefusal_eq_unpadChecks (s : State) : unpadRefusal s = unpadChecks s := by
  unfold unpadRefusal unpadChecks firstError checkInLen
  split_ifs <;> rfl

theorem padRefusal_none {sch : Scheme} {s : State} (h : padRefusal sch s = none) :
    s.inLen.toNat ≤ s.params.inCap ∧ (1 ≤ s.blksz.toNat ∧ s.blksz.toNat ≤ 256) ∧
      (sch = .pkcs5 → s.blksz.toNat = 8) :=
  padChecks_none (padRefusal_eq_padChecks sch s ▸ h)

theorem dataOperand_getElem? {s : State} {i : Nat} (h : i < s.inLen.toNat) :
    (dataOperand s)[i]? = some (s.inByte i) := by simp [dataOperand, h]

theorem dataOperand_getLast? {s : State} (h : s.inLen.toNat ≠ 0) :
    (dataOperand s).getLast? = some (s.inByte (s.inLen.toNat - 1)) := by
  rw [List.getLast?_eq_getElem?, dataOperand_length, dataOperand_getElem? (by omega)]

theorem dataOperand_of_empty {s : State} (h : s.inLen.toNat = 0) : dataOperand s = [] :=
  List.eq_nil_of_length_eq_zero (by rw [dataOperand_length, h])

/-! ### The PAD command flow -/

theorem fillCount_eq_zero {sch : Scheme} (h : sch ≠ .iso10126) (L bs : Nat) :
    fillCount sch L bs = 0 := by
  unfold fillCount
  split
  · exact absurd rfl h
  · rfl

theorem fillBytes_of_fillCount_eq_zero {sch : Scheme} {L bs : Nat} (h : fillCount sch L bs = 0)
    (s : State) : fillBytes sch L bs s = (some [], s) := if_pos h

theorem fillBytes_of_fillCount_ne_zero {sch : Scheme} {L bs : Nat} (h : fillCount sch L bs ≠ 0)
    (s : State) : fillBytes sch L bs s = randomBytes (fillCount sch L bs) s := if_neg h

/-- Asking for the random bytes changes only the oracle's fields. -/
theorem fillBytes_oracle {sch : Scheme} {L bs : Nat} {s u : State} {R : Option Bytes}
    (h : fillBytes sch L bs s = (R, u)) : u = { s with rng := u.rng, draws := u.draws } := by
  obtain rfl : (fillBytes sch L bs s).2 = u := congrArg Prod.snd h
  rcases fillBytes_spec sch L bs s with ⟨_, hfill⟩ | ⟨_, hfill⟩
  · rw [hfill]
  · rw [hfill]
    rfl

theorem runPad_of_refusal {sch : Scheme} {s : State} {e : Err} (h : padRefusal sch s = some e) :
    runPad sch s = raiseError e s := by
  unfold runPad
  rw [← padRefusal_eq_padChecks, h]

theorem runPad_of_fill_fails {sch : Scheme} {s u : State} (h : padRefusal sch s = none)
    (hfill : fillBytes sch s.inLen.toNat s.blksz.toNat s = (none, u)) :
    runPad sch s = raiseError .rngFail u := by
  unfold runPad
  rw [← padRefusal_eq_padChecks, h, padStep_eq, dataOperand_length, hfill]
  rfl

theorem runPad_of_fill {sch : Scheme} {s u : State} {R : Bytes} (h : padRefusal sch s = none)
    (hfill : fillBytes sch s.inLen.toNat s.blksz.toNat s = (some R, u)) :
    runPad sch s = commit (padFn sch (dataOperand s) s.blksz.toNat R) 0 false u := by
  unfold runPad
  rw [← padRefusal_eq_padChecks, h, padStep_eq, dataOperand_length, hfill]
  rfl

/-- A PAD command whose random source fails, if it is asked at all (41_padding.md R127). -/
theorem runPad_failed {sch : Scheme} {s u : State} (h : padRefusal sch s = none)
    (hfill : fillBytes sch s.inLen.toNat s.blksz.toNat s = (none, u)) :
    Failed s (runPad sch s) .rngFail := by
  rw [runPad_of_fill_fails h hfill]
  exact (raiseError_failed u .rngFail).of_oracle (fillBytes_oracle hfill)

/-- A PAD command that passes its checks and has its random bytes commits the padded data. -/
theorem runPad_completed {sch : Scheme} {s u : State} {R : Bytes} (h : padRefusal sch s = none)
    (hfill : fillBytes sch s.inLen.toNat s.blksz.toNat s = (some R, u)) :
    Completed s (runPad sch s) (padFn sch (dataOperand s) s.blksz.toNat R) 0 false := by
  obtain ⟨hL, ⟨_, h256⟩, h5⟩ := padRefusal_none h
  have hR : R.length = fillCount sch (dataOperand s).length s.blksz.toNat := by
    rw [dataOperand_length]
    exact fillBytes_length (congrArg Prod.fst hfill)
  have hlen := padFn_length_le sch (dataOperand s) s.blksz.toNat R hR h5
  rw [dataOperand_length] at hlen
  have ho := fillBytes_oracle hfill
  have hp : u.params = s.params := by rw [ho]
  have hfits : (padFn sch (dataOperand s) s.blksz.toNat R).length ≤ u.params.outCap := by
    rw [hp, outCap_eq]
    omega
  rw [runPad_of_fill h hfill]
  exact (commit_completed u _ 0 false hfits (by omega)).of_oracle ho

/-- Every PAD command but PAD.ISO10126 commits its pad function of the data, or the error of its
first failing check. -/
theorem padResult_runPad {sch : Scheme} (hsch : sch ≠ .iso10126) (s : State) :
    PadResult sch s (runPad sch s) (padFn sch (dataOperand s) s.blksz.toNat []) := by
  have hfill : fillBytes sch s.inLen.toNat s.blksz.toNat s = (some [], s) :=
    fillBytes_of_fillCount_eq_zero (fillCount_eq_zero hsch _ _) s
  unfold PadResult
  cases h : padRefusal sch s with
  | some e =>
    rw [runPad_of_refusal h]
    exact ⟨⟨rfl, rfl⟩, raiseError_failed s e⟩
  | none =>
    refine ⟨?_, runPad_completed h hfill⟩
    rw [runPad_of_fill h hfill]
    exact ⟨rfl, rfl⟩

/-! ### The PAD commands -/

/-- Settles O11: with NONE the pad function is the identity. -/
theorem padNoneIsIdentity : Obligations.PadNoneIsIdentity :=
  ⟨decode_encode .padNone, fun s => ⟨_, rfl, padResult_runPad (by simp) s⟩⟩

/-- Settles O12: PadCount zeros are appended. -/
theorem padZeroAppendsZeros : Obligations.PadZeroAppendsZeros := by
  refine ⟨decode_encode .padZero, fun s => ⟨_, rfl, ?_⟩⟩
  have h := padResult_runPad (sch := .zero) (by simp) s
  simpa only [padFn, padZeroFn, padCount, dataOperand_length] using h

/-- Settles O13: PadCount - 1 zeros and the count byte are appended. -/
theorem padX923AppendsZerosAndCount : Obligations.PadX923AppendsZerosAndCount := by
  refine ⟨decode_encode .padX923, fun s => ⟨_, rfl, ?_⟩⟩
  have h := padResult_runPad (sch := .x923) (by simp) s
  simpa only [ofNat_mod_eq_countByte, padFn, padX923Fn, padCount, dataOperand_length] using h

/-- Settles O14: ISO 9797 is zero padding of the data with its marker, so the appended zeros are
between one and a whole block, and the length follows from that of the data. -/
theorem padIso9797AppendsMarkerAndZeros : Obligations.PadIso9797AppendsMarkerAndZeros := by
  refine ⟨decode_encode .padIso9797, fun s => ⟨_, rfl, ?_, fun hpass => ?_⟩⟩
  · have h := padResult_runPad (sch := .iso9797) (by simp) s
    simpa only [padFn, padIso9797Fn, padZeroFn, padCount, List.length_append, List.length_singleton,
      dataOperand_length] using h
  · obtain ⟨hL, ⟨h1, h256⟩, _⟩ := padRefusal_none hpass
    have hpos := padCount_pos (s.inLen.toNat + 1) h1
    have hle := padCount_le (s.inLen.toNat + 1) s.blksz.toNat
    have hdone := runPad_completed hpass (fillBytes_of_fillCount_eq_zero rfl s)
    have hout : (runPad .iso9797 s).outLen.toNat =
        s.inLen.toNat + 1 + padCount (s.inLen.toNat + 1) s.blksz.toNat := by
      rw [hdone.outLen, ← dataOperand_length]
      exact padIso9797Fn_length (dataOperand s) s.blksz.toNat
    exact ⟨hpos, hle, hout, by show (runPad .iso9797 s).outLen.toNat ≤ _; omega⟩

theorem padFn_iso10126_dataOperand (s : State) (bs : Nat) (R : Bytes) :
    padFn .iso10126 (dataOperand s) bs R =
      dataOperand s ++ R ++ [countByte (padCount s.inLen.toNat bs)] := by
  rw [← dataOperand_length]
  rfl

/-- A count of 1 leaves nothing to fill, so PAD.ISO10126 cannot fail. -/
theorem runPad_iso10126_of_count_one {s : State} (hpass : padRefusal .iso10126 s = none)
    (hn : padCount s.inLen.toNat s.blksz.toNat = 1) :
    Completed s (runPad .iso10126 s) (dataOperand s ++ [0x01]) 0 false ∧
      OracleUnused s (runPad .iso10126 s) := by
  have hfill : fillBytes .iso10126 s.inLen.toNat s.blksz.toNat s = (some [], s) :=
    fillBytes_of_fillCount_eq_zero (sch := .iso10126) (Nat.sub_eq_zero_of_le hn.le) s
  constructor
  · have hdone := runPad_completed hpass hfill
    rwa [padFn_iso10126_dataOperand, hn, List.append_nil] at hdone
  · rw [runPad_of_fill hpass hfill]
    exact ⟨rfl, rfl⟩

/-- A greater count has the source asked once, and its answer decides the completion. -/
theorem runPad_iso10126_of_count_ne_one {s : State} (hpass : padRefusal .iso10126 s = none)
    (hn : padCount s.inLen.toNat s.blksz.toNat - 1 ≠ 0) :
    OracleAskedOnce s (runPad .iso10126 s) ∧
      match (randomBytes (padCount s.inLen.toNat s.blksz.toNat - 1) s).1 with
      | none => Failed s (runPad .iso10126 s) .rngFail
      | some R => R.length = padCount s.inLen.toNat s.blksz.toNat - 1 ∧
        Completed s (runPad .iso10126 s)
          (dataOperand s ++ R ++ [countByte (padCount s.inLen.toNat s.blksz.toNat)]) 0 false := by
  have hask : fillBytes .iso10126 s.inLen.toNat s.blksz.toNat s =
      randomBytes (padCount s.inLen.toNat s.blksz.toNat - 1) s :=
    fillBytes_of_fillCount_ne_zero (sch := .iso10126) hn s
  cases hans : (randomBytes (padCount s.inLen.toNat s.blksz.toNat - 1) s).1 with
  | none =>
    have hfill := hask.trans (Prod.ext hans rfl : _ = (none, _))
    refine ⟨?_, runPad_failed hpass hfill⟩
    rw [runPad_of_fill_fails hpass hfill]
    exact ⟨rfl, rfl⟩
  | some R =>
    have hfill := hask.trans (Prod.ext hans rfl : _ = (some R, _))
    have hdone := runPad_completed hpass hfill
    rw [padFn_iso10126_dataOperand] at hdone
    refine ⟨?_, randomBytes_length hans, hdone⟩
    rw [runPad_of_fill hpass hfill]
    exact ⟨rfl, rfl⟩

/-- Settles O15: the source is asked only when n - 1 is not 0, and it gives as many bytes as it is
asked for. -/
theorem padIso10126AppendsRandomAndCount : Obligations.PadIso10126AppendsRandomAndCount := by
  refine ⟨decode_encode .padIso10126, fun s => ⟨_, rfl, ?_⟩, fun s k rest h => ?_,
    fun s R rest h => ?_⟩
  · cases hpass : padRefusal .iso10126 s with
    | some e =>
      rw [runPad_of_refusal hpass]
      exact ⟨raiseError_failed s e, rfl, rfl⟩
    | none =>
      obtain ⟨_, ⟨h1, _⟩, _⟩ := padRefusal_none hpass
      have hpos := padCount_pos s.inLen.toNat h1
      simp only [ofNat_mod_eq_countByte]
      split
      · next hn => exact runPad_iso10126_of_count_one hpass hn
      · next hn =>
        have hn : padCount s.inLen.toNat s.blksz.toNat ≠ 1 := hn
        exact runPad_iso10126_of_count_ne_one hpass (by omega)
  · unfold randomBytes
    rw [h]
  · rw [randomBytes_listed R.length s R rest h le_rfl, List.take_length]

/-- Settles O16: PKCS #5 is PKCS #7 with block size 8, and a count of at most 8 is its own count
byte. -/
theorem padPkcs5AppendsCounts : Obligations.PadPkcs5AppendsCounts := by
  refine ⟨decode_encode .padPkcs5, fun s => ⟨_, rfl, ?_⟩⟩
  have h := padResult_runPad (sch := .pkcs5) (by simp) s
  simpa only [padFn, padPkcs5Fn, padPkcs7Fn, countByte, padCount, dataOperand_length] using h

/-- Settles O17: PadCount count bytes are appended. -/
theorem padPkcs7AppendsCounts : Obligations.PadPkcs7AppendsCounts := by
  refine ⟨decode_encode .padPkcs7, fun s => ⟨_, rfl, ?_⟩⟩
  have h := padResult_runPad (sch := .pkcs7) (by simp) s
  simpa only [ofNat_mod_eq_countByte, padFn, padPkcs7Fn, padCount, dataOperand_length] using h

/-! ### The UNPAD command flow -/

/-- An UNPAD command commits its unpad function of the data, or the input-length error. -/
theorem unpadResult_runUnpad (sch : Scheme) (s : State) :
    UnpadResult s (runUnpad sch s) (unpadFn sch (dataOperand s)).1
      (unpadFn sch (dataOperand s)).2 := by
  unfold UnpadResult runUnpad
  rw [unpadRefusal_eq_unpadChecks]
  cases h : unpadChecks s with
  | some e => exact ⟨⟨rfl, rfl⟩, raiseError_failed s e⟩
  | none =>
    have hL := unpadChecks_none h
    have hlen := unpadFn_length_le sch (dataOperand s)
    rw [dataOperand_length] at hlen
    have hfits : (unpadFn sch (dataOperand s)).1.length ≤ s.params.outCap := by
      rw [outCap_eq]
      omega
    exact ⟨⟨rfl, rfl⟩, commit_completed s _ 0 _ hfits (by omega)⟩

/-- The same for a string and a flag that the unpad function is known to give. -/
theorem unpadResult_of_unpadFn {sch : Scheme} {s : State} {Y : Bytes} {mal : Bool}
    (h : unpadFn sch (dataOperand s) = (Y, mal)) : UnpadResult s (runUnpad sch s) Y mal := by
  have hrun := unpadResult_runUnpad sch s
  rwa [h] at hrun

/-- The last of the first k bytes of the data is INB[k - 1]. -/
theorem dataOperand_take_eq_concat {s : State} {k : Nat} (h0 : k ≠ 0) (hk : k ≤ s.inLen.toNat) :
    (dataOperand s).take k = (dataOperand s).take (k - 1) ++ [s.inByte (k - 1)] := by
  obtain ⟨i, rfl⟩ := Nat.exists_eq_succ_of_ne_zero h0
  rw [Nat.succ_sub_one, List.take_add_one, dataOperand_getElem? hk, Option.toList_some]

/-- The place k of 41_padding.md R133: what ZeroStrip keeps of the data is what stands before the
trailing zeros, and the byte before them is not zero. -/
theorem zeroStrip_dataOperand (s : State) :
    ∃ k, k ≤ s.inLen.toNat ∧ (∀ i, k ≤ i → i < s.inLen.toNat → s.inByte i = 0x00) ∧
      (k = 0 ∨ s.inByte (k - 1) ≠ 0x00) ∧ zeroStrip (dataOperand s) = (dataOperand s).take k := by
  obtain ⟨j, hj⟩ := zeroStrip_append_removed (dataOperand s)
  have hle := zeroStrip_length_le (dataOperand s)
  rw [dataOperand_length] at hle
  have htake := List.prefix_iff_eq_take.1 ⟨_, hj⟩
  refine ⟨(zeroStrip (dataOperand s)).length, hle, fun i hi hlt => ?_, ?_, htake⟩
  · have hget := dataOperand_getElem? hlt
    rw [← hj, List.getElem?_append_right hi] at hget
    exact List.eq_of_mem_replicate (List.mem_of_getElem? hget)
  · refine or_iff_not_imp_left.2 fun h0 hzero => zeroStrip_getLast? (dataOperand s) ?_
    rw [htake, dataOperand_take_eq_concat h0 hle, hzero, List.getLast?_concat]

/-! ### The UNPAD commands -/

/-- Settles O18: with NONE the unpad function is the identity. -/
theorem unpadNoneIsIdentity : Obligations.UnpadNoneIsIdentity :=
  ⟨decode_encode .unpadNone, fun _ => ⟨_, rfl, unpadResult_of_unpadFn rfl⟩⟩

/-- Settles O19: ZeroStrip keeps what stands before the trailing zeros. -/
theorem unpadZeroStripsZeros : Obligations.UnpadZeroStripsZeros := by
  refine ⟨decode_encode .unpadZero, fun s => ⟨_, rfl, ?_⟩⟩
  obtain ⟨k, hk, hzeros, hlast, hstrip⟩ := zeroStrip_dataOperand s
  exact ⟨k, hk, hzeros, hlast, unpadResult_of_unpadFn (congrArg (·, false) hstrip)⟩

/-- The four count commands share one effect (41_padding.md R134): the branches are those of
CountUnpad, whose last byte is the last input byte. -/
theorem unpadResult_of_countUnpad {sch : Scheme} (h : unpadFn sch = countUnpad) (s : State) :
    let L := s.inLen.toNat
    let n := (s.inByte (L - 1)).toNat
    if L = 0 then UnpadResult s (runUnpad sch s) [] true
    else if n = 0 then UnpadResult s (runUnpad sch s) (dataOperand s) true
    else if n > L then UnpadResult s (runUnpad sch s) [] true
    else UnpadResult s (runUnpad sch s) ((dataOperand s).take (L - n)) false := by
  intro L n
  by_cases hL : L = 0
  · rw [if_pos hL]
    exact unpadResult_of_unpadFn (by rw [h, dataOperand_of_empty hL]; rfl)
  · have hcount := countUnpad_of_getLast? (dataOperand_getLast? hL)
    rw [← h, dataOperand_length] at hcount
    rw [if_neg hL]
    split_ifs at hcount ⊢ <;> exact unpadResult_of_unpadFn hcount

/-- Settles O20: the four schemes' unpad functions are CountUnpad. -/
theorem unpadCountTruncates : Obligations.UnpadCountTruncates := by
  intro p hp
  simp only [List.mem_cons, List.not_mem_nil, or_false] at hp
  obtain rfl | rfl | rfl | rfl := hp
  · exact ⟨decode_encode .unpadX923, fun s => ⟨_, rfl, unpadResult_of_countUnpad rfl s⟩⟩
  · exact ⟨decode_encode .unpadIso10126, fun s => ⟨_, rfl, unpadResult_of_countUnpad rfl s⟩⟩
  · exact ⟨decode_encode .unpadPkcs5, fun s => ⟨_, rfl, unpadResult_of_countUnpad rfl s⟩⟩
  · exact ⟨decode_encode .unpadPkcs7, fun s => ⟨_, rfl, unpadResult_of_countUnpad rfl s⟩⟩

/-- Settles O21: the byte that ISO 9797 drops is the last that ZeroStrip keeps. -/
theorem unpadIso9797DropsMarker : Obligations.UnpadIso9797DropsMarker := by
  refine ⟨decode_encode .unpadIso9797, fun s => ⟨_, rfl, ?_⟩⟩
  obtain ⟨k, hk, hzeros, hlast, hstrip⟩ := zeroStrip_dataOperand s
  refine ⟨k, hk, hzeros, hlast, ?_⟩
  by_cases h0 : k = 0
  · rw [if_pos h0]
    rw [h0, List.take_zero] at hstrip
    exact unpadResult_of_unpadFn (unpadIso9797Fn_of_nil hstrip)
  · rw [dataOperand_take_eq_concat h0 hk] at hstrip
    have hmal : (s.inByte (k - 1) != 0x80) = decide (s.inByte (k - 1) ≠ 0x80) :=
      Bool.eq_iff_iff.2 (by simp)
    rw [if_neg h0]
    exact unpadResult_of_unpadFn (hmal ▸ unpadIso9797Fn_of_concat hstrip)

end Sys2Proof.Machine
end

section
/-! The mode functions as functions of byte strings (42_block_modes.md R162 to R177): the lengths of
segments, the two ways a mode chains them and the keystream that masks them, and the round trip of
every mode. -/

namespace Sys2Proof.Machine

/-! ### Exclusive or -/

theorem xorBytes_xorBytes {X K : Bytes} (h : X.length ≤ K.length) :
    xorBytes (xorBytes X K) K = X := by
  refine List.ext_getElem (by simp [xorBytes, h]) fun i _ _ => ?_
  simp [xorBytes]

theorem xorKeystream_xorKeystream {X K : Bytes} (h : X.length ≤ K.length) :
    xorKeystream (xorKeystream X K) K = X := by
  have hlen := xorKeystream_length X K h
  unfold xorKeystream at hlen ⊢
  rw [hlen, xorBytes_xorBytes (by simp [h])]

/-! ### Big-endian integers -/

theorem bigEndian_append_singleton (X : Bytes) (b : Byte) :
    bigEndian (X ++ [b]) = bigEndian X * 256 + b.toNat := by
  simp [bigEndian]

/-- The last of the bytes is the integer modulo 256. -/
theorem bigEndianBytes_succ (k v : Nat) :
    bigEndianBytes (k + 1) v = bigEndianBytes k (v / 256) ++ [BitVec.ofNat 8 v] := by
  unfold bigEndianBytes
  rw [List.range_succ, List.map_append]
  congr 1
  · refine List.map_congr_left fun j hj => ?_
    have hj := List.mem_range.1 hj
    rw [Nat.div_div_eq_div_mul, ← Nat.pow_succ', show (k - 1 - j).succ = k + 1 - 1 - j by omega]
  · simp

/-- BE undoes BEbytes_k modulo 256^k (00_scope.md R16). -/
theorem bigEndian_bigEndianBytes (k v : Nat) : bigEndian (bigEndianBytes k v) = v % 256 ^ k := by
  induction k generalizing v with
  | zero => simp [bigEndianBytes, bigEndian, Nat.mod_one]
  | succ k ih =>
    rw [bigEndianBytes_succ, bigEndian_append_singleton, ih, Nat.pow_succ', Nat.mod_mul,
      BitVec.toNat_ofNat]
    omega

/-! ### Segments -/

theorem segments_length (bs : Nat) (X : Bytes) :
    (segments bs X).length = segmentCount bs X.length := cutSegments_length _ _ _

theorem segments_getD {bs : Nat} {X : Bytes} {i : Nat} (h : i < segmentCount bs X.length) :
    (segments bs X).getD i [] = blockAt bs X i := by
  rw [List.getD_eq_getElem?_getD, segments, cutSegments_getElem? bs _ X i h, Option.getD_some]

theorem length_le_of_mem_cutSegments {bs k : Nat} {X x : Bytes} (h : x ∈ cutSegments bs k X) :
    x.length ≤ min bs X.length := by
  induction k generalizing X with
  | zero => cases h
  | succ k ih =>
    rcases List.mem_cons.1 h with rfl | h
    · exact (List.length_take ..).le
    · have hrest := ih h
      rw [List.length_drop] at hrest
      omega

/-- Lengths that never grow from a first block on, so that every segment is masked whole by what
stands before it: only the last segment can be short (42_block_modes.md R167). -/
def LengthsFall (first : Bytes) (X : List Bytes) : Prop :=
  ((first :: X).map List.length).Pairwise (· ≥ ·)

theorem lengthsFall_cons {first x : Bytes} {X : List Bytes} :
    LengthsFall first (x :: X) ↔
      (∀ y ∈ x :: X, y.length ≤ first.length) ∧ LengthsFall x X := by
  simp [LengthsFall]

theorem LengthsFall.congr {first x : Bytes} {X : List Bytes} (h : LengthsFall first X)
    (hx : x.length = first.length) : LengthsFall x X := by
  unfold LengthsFall at h ⊢
  rwa [List.map_cons, hx]

theorem LengthsFall.le {first : Bytes} {X : List Bytes} (h : LengthsFall first X) {x : Bytes}
    (hx : x ∈ X) : x.length ≤ first.length :=
  (List.pairwise_cons.1 h).1 _ (List.mem_map_of_mem hx)

theorem lengthsFall_cutSegments {bs : Nat} {first X : Bytes} (k : Nat)
    (h : min bs X.length ≤ first.length) : LengthsFall first (cutSegments bs k X) := by
  induction k generalizing first X with
  | zero => simp [LengthsFall, cutSegments]
  | succ k ih =>
    refine lengthsFall_cons.2
      ⟨fun y hy => (length_le_of_mem_cutSegments (k := k + 1) hy).trans h, ih ?_⟩
    simp only [List.length_take, List.length_drop]
    omega

theorem lengthsFall_segments {bs : Nat} {first : Bytes} (h : first.length = bs) (X : Bytes) :
    LengthsFall first (segments bs X) :=
  lengthsFall_cutSegments _ (h ▸ min_le_left _ _)

theorem length_flatten_congr {X Y : List Bytes} (h : Y.map List.length = X.map List.length) :
    Y.flatten.length = X.flatten.length := by
  rw [List.length_flatten, List.length_flatten, h]

/-- Strings as long as the segments of `X` are cut again where they were joined. -/
theorem cutSegments_flatten_of_lengths {bs k : Nat} {X : Bytes} {Y : List Bytes}
    (hX : X.length ≤ k * bs) (h : Y.map List.length = (cutSegments bs k X).map List.length) :
    cutSegments bs k Y.flatten = Y := by
  induction k generalizing X Y with
  | zero => exact (List.map_eq_nil_iff.1 h).symm
  | succ k ih =>
    cases Y with
    | nil => simp [cutSegments] at h
    | cons y Y =>
      simp only [cutSegments, List.map_cons, List.cons.injEq, List.length_take] at h
      obtain ⟨hy, hY⟩ := h
      have hdrop : (X.drop bs).length ≤ k * bs := by
        rw [List.length_drop]
        rw [Nat.succ_mul] at hX
        omega
      have hflat : Y.flatten.length = X.length - bs := by
        rw [length_flatten_congr hY, cutSegments_flatten _ _ _ hdrop, List.length_drop]
      simp only [cutSegments, List.flatten_cons]
      by_cases hfull : y.length = bs
      · rw [List.take_left' hfull, List.drop_left' hfull, ih hdrop hY]
      · have hnil : Y.flatten = [] := List.eq_nil_of_length_eq_zero (by omega)
        have hrest := ih hdrop hY
        rw [hnil] at hrest
        rw [hnil, List.append_nil, List.take_of_length_le (by omega),
          List.drop_of_length_le (by omega), hrest]

theorem segments_flatten_of_lengths {bs : Nat} (hbs : 1 ≤ bs) {X : Bytes} {Y : List Bytes}
    (h : Y.map List.length = (segments bs X).map List.length) : segments bs Y.flatten = Y := by
  have hlen : Y.flatten.length = X.length := by
    rw [length_flatten_congr h, segments_flatten bs X hbs]
  unfold segments
  rw [hlen]
  exact cutSegments_flatten_of_lengths (segmentCount_mul_le _ _ hbs) h

/-! ### The chain of outputs and the chain of inputs -/

theorem before_cons_succ (first x : Bytes) (chain : List Bytes) (i : Nat) :
    before first (x :: chain) (i + 1) = before x chain i := by
  cases i <;> rfl

/-- The predecessor of an input segment is a slice of the data. -/
theorem before_segments {bs : Nat} {first X : Bytes} {i : Nat}
    (h : i < segmentCount bs X.length) :
    before first (segments bs X) i = if i = 0 then first else blockAt bs X (i - 1) := by
  unfold before
  rw [segments_getD (by omega)]

/-- A chain in which `f` takes the output before it: CBC and CFB encryption. -/
def chainOut (f : Bytes → Bytes → Bytes) (prev : Bytes) : List Bytes → List Bytes
  | [] => []
  | x :: rest => f prev x :: chainOut f (f prev x) rest

/-- A chain in which `g` takes the input before it: CBC and CFB decryption. -/
def chainIn (g : Bytes → Bytes → Bytes) (prev : Bytes) : List Bytes → List Bytes
  | [] => []
  | x :: rest => g prev x :: chainIn g x rest

theorem chainOut_getD (f : Bytes → Bytes → Bytes) (prev : Bytes) {X : List Bytes} {i : Nat}
    (h : i < X.length) :
    (chainOut f prev X).getD i [] = f (before prev (chainOut f prev X) i) (X.getD i []) := by
  induction X generalizing prev i with
  | nil => cases h
  | cons x X ih =>
    cases i with
    | zero => rfl
    | succ i =>
      simp only [chainOut, before_cons_succ, List.getD_cons_succ]
      exact ih _ (Nat.lt_of_succ_lt_succ h)

theorem chainIn_getD (g : Bytes → Bytes → Bytes) (prev : Bytes) {X : List Bytes} {i : Nat}
    (h : i < X.length) :
    (chainIn g prev X).getD i [] = g (before prev X i) (X.getD i []) := by
  induction X generalizing prev i with
  | nil => cases h
  | cons x X ih =>
    cases i with
    | zero => rfl
    | succ i =>
      simp only [chainIn, before_cons_succ, List.getD_cons_succ]
      exact ih _ (Nat.lt_of_succ_lt_succ h)

/-- `f` keeps the length of a string that is no longer than what stands before it. -/
def KeepsLength (f : Bytes → Bytes → Bytes) : Prop :=
  ∀ prev x : Bytes, x.length ≤ prev.length → (f prev x).length = x.length

theorem map_length_chainOut {f : Bytes → Bytes → Bytes} (hf : KeepsLength f) {prev : Bytes}
    {X : List Bytes} (h : LengthsFall prev X) :
    (chainOut f prev X).map List.length = X.map List.length := by
  induction X generalizing prev with
  | nil => rfl
  | cons x X ih =>
    have hx := hf prev x (h.le (by simp))
    rw [chainOut, List.map_cons, List.map_cons, hx, ih ((lengthsFall_cons.1 h).2.congr hx)]

/-- The input of the decryption is the output of the encryption, so both chains hand on the same
segment (42_block_modes.md R176). -/
theorem chainIn_chainOut {f g : Bytes → Bytes → Bytes} (hf : KeepsLength f)
    (hg : ∀ prev x : Bytes, x.length ≤ prev.length → g prev (f prev x) = x) {prev : Bytes}
    {X : List Bytes} (h : LengthsFall prev X) : chainIn g prev (chainOut f prev X) = X := by
  induction X generalizing prev with
  | nil => rfl
  | cons x X ih =>
    have hle := h.le (List.mem_cons_self ..)
    rw [chainOut, chainIn, hg prev x hle,
      ih ((lengthsFall_cons.1 h).2.congr (hf prev x hle))]

/-! ### CBC and CFB -/

/-- One step of CBC encryption (42_block_modes.md R165). -/
def cbcEncStep (c : CipherPort) (prev x : Bytes) : Bytes := cipherE c (xorBytes x prev)

/-- One step of CBC decryption (42_block_modes.md R166). -/
def cbcDecStep (c : CipherPort) (prev x : Bytes) : Bytes := xorBytes (cipherD c x) prev

/-- One step of CFB in either direction (42_block_modes.md R167, R168). -/
def cfbStep (c : CipherPort) (prev x : Bytes) : Bytes := xorKeystream x (cipherE c prev)

theorem cbcEnc_eq_chainOut (c : CipherPort) (prev : Bytes) (P : List Bytes) :
    cbcEnc c prev P = chainOut (cbcEncStep c) prev P := by
  induction P generalizing prev with
  | nil => rfl
  | cons p P ih => simp only [cbcEnc, chainOut, cbcEncStep, ih]

theorem cbcDec_eq_chainIn (c : CipherPort) (prev : Bytes) (C : List Bytes) :
    cbcDec c prev C = chainIn (cbcDecStep c) prev C := by
  induction C generalizing prev with
  | nil => rfl
  | cons ci C ih => simp only [cbcDec, chainIn, cbcDecStep, ih]

theorem cfbEnc_eq_chainOut (c : CipherPort) (prev : Bytes) (P : List Bytes) :
    cfbEnc c prev P = chainOut (cfbStep c) prev P := by
  induction P generalizing prev with
  | nil => rfl
  | cons p P ih => simp only [cfbEnc, chainOut, cfbStep, ih]

theorem cfbDec_eq_chainIn (c : CipherPort) (prev : Bytes) (C : List Bytes) :
    cfbDec c prev C = chainIn (cfbStep c) prev C := by
  induction C generalizing prev with
  | nil => rfl
  | cons ci C ih => simp only [cfbDec, chainIn, cfbStep, ih]

theorem cbcEncStep_keepsLength (c : CipherPort) : KeepsLength (cbcEncStep c) := fun prev x h => by
  rw [cbcEncStep, cipherE_length, xorBytes_length x prev h]

theorem cfbStep_keepsLength (c : CipherPort) : KeepsLength (cfbStep c) := fun prev x h =>
  xorKeystream_length _ _ (by rwa [cipherE_length])

theorem cbcDecStep_cbcEncStep (c : CipherPort) {prev x : Bytes} (h : x.length ≤ prev.length) :
    cbcDecStep c prev (cbcEncStep c prev x) = x := by
  rw [cbcDecStep, cbcEncStep, cipherD_cipherE, xorBytes_xorBytes h]

theorem cfbStep_cfbStep (c : CipherPort) {prev x : Bytes} (h : x.length ≤ prev.length) :
    cfbStep c prev (cfbStep c prev x) = x :=
  xorKeystream_xorKeystream (by rwa [cipherE_length])

/-! ### The keystream of OFB and CTR -/

/-- The segments masked with the blocks of a keystream (42_block_modes.md R162). -/
def maskAll (K : Nat → Bytes) (X : List Bytes) : List Bytes :=
  X.mapIdx fun i x => xorKeystream x (K i)

/-- K_i of OFB: E iterated on the IV (42_block_modes.md R169). -/
def ofbKeystream (c : CipherPort) (iv : Bytes) (i : Nat) : Bytes := (cipherE c)^[i + 1] iv

/-- K_i of CTR: E of the counter block (42_block_modes.md R172). -/
def ctrKeystream (c : CipherPort) (iv : Bytes) (i : Nat) : Bytes :=
  cipherE c (counterBlock c.bs iv i)

theorem ofbKeystream_succ (c : CipherPort) (iv : Bytes) (i : Nat) :
    ofbKeystream c iv (i + 1) = cipherE c (ofbKeystream c iv i) :=
  Function.iterate_succ_apply' _ _ _

theorem ofbApply_eq_maskAll (c : CipherPort) (iv : Bytes) (X : List Bytes) :
    ofbApply c iv X = maskAll (ofbKeystream c iv) X := by
  induction X generalizing iv with
  | nil => rfl
  | cons x X ih =>
    simp only [ofbApply, ih, maskAll, List.mapIdx_cons]
    rfl

theorem ctrApply_eq_maskAll (c : CipherPort) (iv : Bytes) (n : Nat) (X : List Bytes) :
    ctrApply c iv n X = maskAll (fun i => ctrKeystream c iv (n + i)) X := by
  induction X generalizing n with
  | nil => rfl
  | cons x X ih =>
    simp only [ctrApply, ih, maskAll, List.mapIdx_cons, Nat.add_assoc, Nat.add_comm 1]
    rfl

theorem maskAll_getD (K : Nat → Bytes) {X : List Bytes} {i : Nat} (h : i < X.length) :
    (maskAll K X).getD i [] = xorKeystream (X.getD i []) (K i) := by
  simp [maskAll, h]

theorem map_length_maskAll {K : Nat → Bytes} {X : List Bytes}
    (h : ∀ x ∈ X, ∀ i, x.length ≤ (K i).length) :
    (maskAll K X).map List.length = X.map List.length := by
  refine List.ext_getElem (by simp [maskAll]) fun i hi _ => ?_
  simp only [maskAll, List.getElem_map, List.getElem_mapIdx]
  exact xorKeystream_length _ _ (h _ (List.getElem_mem _) i)

/-- A keystream that does not depend on the data masks it away again. -/
theorem maskAll_maskAll {K : Nat → Bytes} {X : List Bytes}
    (h : ∀ x ∈ X, ∀ i, x.length ≤ (K i).length) : maskAll K (maskAll K X) = X := by
  refine List.ext_getElem (by simp [maskAll]) fun i _ hi => ?_
  simp only [maskAll, List.getElem_mapIdx]
  exact xorKeystream_xorKeystream (h _ (List.getElem_mem hi) i)

theorem ofbKeystream_length (c : CipherPort) (iv : Bytes) (i : Nat) :
    (ofbKeystream c iv i).length = iv.length := by
  induction i with
  | zero => exact cipherE_length c iv
  | succ i ih => rw [ofbKeystream_succ, cipherE_length, ih]

theorem ctrKeystream_length (c : CipherPort) (iv : Bytes) (i : Nat) :
    (ctrKeystream c iv i).length = c.bs := by
  rw [ctrKeystream, cipherE_length, counterBlock, bigEndianBytes_length]

/-! ### The modes -/

theorem modeEncSegments_length (m : ChainMode) (c : CipherPort) (iv : Bytes) (P : List Bytes) :
    (modeEncSegments m c iv P).length = P.length :=
  (modeEncSegments_noGrowth m c iv P).length_eq.symm

theorem modeDecSegments_length (m : ChainMode) (c : CipherPort) (iv : Bytes) (C : List Bytes) :
    (modeDecSegments m c iv C).length = C.length :=
  (modeDecSegments_noGrowth m c iv C).length_eq.symm

section
variable {c : CipherPort} {iv : Bytes} {P : List Bytes}

theorem le_ofbKeystream (h : LengthsFall iv P) :
    ∀ x ∈ P, ∀ i, x.length ≤ (ofbKeystream c iv i).length := fun _ hx i =>
  (h.le hx).trans_eq (ofbKeystream_length c iv i).symm

theorem le_ctrKeystream (hiv : iv.length = c.bs) (h : LengthsFall iv P) :
    ∀ x ∈ P, ∀ i, x.length ≤ (ctrKeystream c iv i).length := fun _ hx i =>
  (h.le hx).trans_eq (hiv.trans (ctrKeystream_length c iv i).symm)

theorem map_length_modeEncSegments (m : ChainMode) (hiv : iv.length = c.bs)
    (h : LengthsFall iv P) :
    (modeEncSegments m c iv P).map List.length = P.map List.length := by
  cases m with
  | ecb => simp [modeEncSegments, ecbEnc, cipherE_length]
  | cbc =>
    rw [modeEncSegments, cbcEnc_eq_chainOut, map_length_chainOut (cbcEncStep_keepsLength c) h]
  | cfb =>
    rw [modeEncSegments, cfbEnc_eq_chainOut, map_length_chainOut (cfbStep_keepsLength c) h]
  | ofb =>
    rw [modeEncSegments, ofbApply_eq_maskAll, map_length_maskAll (le_ofbKeystream h)]
  | ctr =>
    rw [modeEncSegments, ctrApply_eq_maskAll]
    exact map_length_maskAll fun x hx i => le_ctrKeystream hiv h x hx (0 + i)

/-- The segments of every mode come back (42_block_modes.md R176, R177). -/
theorem modeDecSegments_modeEncSegments (m : ChainMode) (hiv : iv.length = c.bs)
    (h : LengthsFall iv P) : modeDecSegments m c iv (modeEncSegments m c iv P) = P := by
  cases m with
  | ecb =>
    have hid : cipherD c ∘ cipherE c = id := funext (cipherD_cipherE c)
    rw [modeDecSegments, modeEncSegments, ecbEnc, ecbDec, List.map_map, hid, List.map_id]
  | cbc =>
    rw [modeDecSegments, modeEncSegments, cbcEnc_eq_chainOut, cbcDec_eq_chainIn]
    exact chainIn_chainOut (cbcEncStep_keepsLength c) (fun _ _ => cbcDecStep_cbcEncStep c) h
  | cfb =>
    rw [modeDecSegments, modeEncSegments, cfbEnc_eq_chainOut, cfbDec_eq_chainIn]
    exact chainIn_chainOut (cfbStep_keepsLength c) (fun _ _ => cfbStep_cfbStep c) h
  | ofb =>
    rw [modeDecSegments, modeEncSegments, ofbApply_eq_maskAll, ofbApply_eq_maskAll,
      maskAll_maskAll (le_ofbKeystream h)]
  | ctr =>
    rw [modeDecSegments, modeEncSegments, ctrApply_eq_maskAll, ctrApply_eq_maskAll]
    exact maskAll_maskAll fun x hx i => le_ctrKeystream hiv h x hx (0 + i)

end

theorem map_length_encSegments (m : ChainMode) {c : CipherPort} {iv : Bytes}
    (hiv : iv.length = c.bs) (P : Bytes) :
    (modeEncSegments m c iv (segments c.bs P)).map List.length =
      (segments c.bs P).map List.length :=
  map_length_modeEncSegments m hiv (lengthsFall_segments hiv P)

/-- ENC outputs as many bytes as it is given (42_block_modes.md R175). -/
theorem modeEnc_length (m : ChainMode) {c : CipherPort} {iv : Bytes} (hbs : 1 ≤ c.bs)
    (hiv : iv.length = c.bs) (P : Bytes) : (modeEnc m c iv P).1.length = P.length := by
  rw [modeEnc, length_flatten_congr (map_length_encSegments m hiv P), segments_flatten _ _ hbs]

theorem modeDec_modeEnc (m : ChainMode) {c : CipherPort} {iv : Bytes} (hbs : 1 ≤ c.bs)
    (hiv : iv.length = c.bs) (P : Bytes) : (modeDec m c iv (modeEnc m c iv P).1).1 = P := by
  simp only [modeDec, modeEnc]
  rw [segments_flatten_of_lengths hbs (map_length_encSegments m hiv P),
    modeDecSegments_modeEncSegments m hiv (lengthsFall_segments hiv P), segments_flatten _ _ hbs]

/-- Settles O55: OFB and CTR have one function for both directions, and every mode's decryption
undoes its encryption. -/
theorem streamSymmetry : Obligations.StreamSymmetry := fun _ _ X hbs hiv =>
  ⟨rfl, rfl, fun m _ => modeDec_modeEnc m hbs hiv X⟩

end Sys2Proof.Machine
end

section
/-! The ENC and DEC commands of the five chain modes (42_block_modes.md R160 to R177): what each of
the two command flows leaves, from it what each command leaves, and the round trip of the
commands. -/

namespace Sys2Proof.Machine

/-! ### The checks -/

theorem checkCipher_eq_ite (c : CipherPort) :
    checkCipher c = if c.status ≠ .ok then some .cipherFailed else none := by
  unfold checkCipher
  cases c.status <;> rfl

/-- The checks in the order of 42_block_modes.md R160 are the model's. -/
theorem encRefusal_eq_encChecks (m : ChainMode) (sch : Scheme) (s : State) :
    encRefusal m sch s = encChecks m sch s := by
  unfold encRefusal encChecks
  simp only [checkCipher_eq_ite]
  unfold firstError checkInLen checkBlockSize checkPkcs5 checkIvLen checkEncMultiple
  split_ifs <;> rfl

/-- The checks in the order of 42_block_modes.md R161 are the model's. -/
theorem decRefusal_eq_decChecks (m : ChainMode) (sch : Scheme) (s : State) :
    decRefusal m sch s = decChecks m sch s := by
  unfold decRefusal decChecks
  simp only [checkCipher_eq_ite]
  unfold firstError checkInLen checkBlockSize checkPkcs5 checkIvLen checkDecMultiple
  split_ifs <;> rfl

/-- A chain of checks passes when its first check and the rest do (60_exceptions.md R253). -/
theorem errorIf_eq_none_iff {p : Prop} [Decidable p] {e : Err} {rest : Option Err} :
    (if p then some e else rest) = none ↔ ¬p ∧ rest = none := by
  by_cases hp : p <;> simp [hp]

/-- What the five checks that ENC and DEC share ask of a state (60_exceptions.md R254 to R259). -/
structure ChainOperandsLegal (m : ChainMode) (sch : Scheme) (s : State) : Prop where
  status : s.params.cipher.status = .ok
  inLen : s.inLen.toNat ≤ s.params.inCap
  bs_pos : 1 ≤ s.params.cipher.bs
  bs_le : s.params.cipher.bs ≤ 256
  pkcs5 : sch = .pkcs5 → s.params.cipher.bs = 8
  ivLen : m ≠ .ecb → s.ivLen.toNat = s.params.cipher.bs

theorem chainOperandsLegal_iff {m : ChainMode} {sch : Scheme} {s : State} :
    ChainOperandsLegal m sch s ↔
      s.params.cipher.status = .ok ∧ s.inLen.toNat ≤ s.params.inCap ∧
        (1 ≤ s.params.cipher.bs ∧ s.params.cipher.bs ≤ 256) ∧
        (sch = .pkcs5 → s.params.cipher.bs = 8) ∧
        (m ≠ .ecb → s.ivLen.toNat = s.params.cipher.bs) :=
  ⟨fun ⟨hok, hin, h1, h256, h5, hiv⟩ => ⟨hok, hin, ⟨h1, h256⟩, h5, hiv⟩,
    fun ⟨hok, hin, ⟨h1, h256⟩, h5, hiv⟩ => ⟨hok, hin, h1, h256, h5, hiv⟩⟩

theorem encRefusal_eq_none_iff {m : ChainMode} {sch : Scheme} {s : State} :
    encRefusal m sch s = none ↔ ChainOperandsLegal m sch s ∧
      ((m = .ecb ∨ m = .cbc) → sch = .none → s.inLen.toNat % s.params.cipher.bs = 0) := by
  simp only [encRefusal, errorIf_eq_none_iff, chainOperandsLegal_iff, and_true, and_assoc,
    not_and, not_not, not_or, not_lt]

theorem decRefusal_eq_none_iff {m : ChainMode} {sch : Scheme} {s : State} :
    decRefusal m sch s = none ↔ ChainOperandsLegal m sch s ∧
      ((m = .ecb ∨ m = .cbc) → s.inLen.toNat % s.params.cipher.bs = 0) := by
  simp only [decRefusal, errorIf_eq_none_iff, chainOperandsLegal_iff, and_true, and_assoc,
    not_and, not_not, not_or, not_lt]

/-! ### The padded data -/

/-- P of an ENC command, `R` being the random bytes of ISO 10126 (42_block_modes.md R160). -/
def paddedData (sch : Scheme) (s : State) (R : Bytes) : Bytes :=
  padFn sch (dataOperand s) s.params.cipher.bs R

section
variable {m : ChainMode} {sch : Scheme} {s : State} {R : Bytes}

theorem paddedData_length_le (hlegal : ChainOperandsLegal m sch s)
    (hR : R.length = fillCount sch s.inLen.toNat s.params.cipher.bs) :
    (paddedData sch s R).length ≤ s.params.inCap + 257 := by
  rw [← dataOperand_length] at hR
  have hlen := padFn_length_le sch (dataOperand s) s.params.cipher.bs R hR hlegal.pkcs5
  have hin := hlegal.inLen
  have h256 := hlegal.bs_le
  rw [dataOperand_length] at hlen
  unfold paddedData
  omega

/-- Padding makes whole blocks, unless the scheme is NONE (41_padding.md R130). -/
theorem paddedData_length_of_ne_none (hlegal : ChainOperandsLegal m sch s) (hsch : sch ≠ .none)
    (hR : R.length = fillCount sch s.inLen.toNat s.params.cipher.bs) :
    (paddedData sch s R).length % s.params.cipher.bs = 0 ∧
      s.inLen.toNat < (paddedData sch s R).length := by
  rw [← dataOperand_length] at hR ⊢
  obtain ⟨hmod, hlt, _⟩ := padLengthLaw sch (dataOperand s) R s.params.cipher.bs hsch
    hlegal.bs_pos hlegal.bs_le hlegal.pkcs5 hR
  exact ⟨hmod, hlt⟩

/-- Padded data passes the block-multiple check of DEC, since unpadded data passed that of ENC. -/
theorem paddedData_length_mod (h : encRefusal m sch s = none) (hm : m = .ecb ∨ m = .cbc)
    (hR : R.length = fillCount sch s.inLen.toNat s.params.cipher.bs) :
    (paddedData sch s R).length % s.params.cipher.bs = 0 := by
  obtain ⟨hlegal, hmultiple⟩ := encRefusal_eq_none_iff.1 h
  by_cases hsch : sch = .none
  · have hmod := hmultiple hm hsch
    rw [← dataOperand_length] at hmod
    rw [hsch]
    exact hmod
  · exact (paddedData_length_of_ne_none hlegal hsch hR).1

end

/-! ### The ENC command flow -/

theorem exec_encInstr (m : ChainMode) (sch : Scheme) (s : State) :
    exec (encInstr m sch) s = .next (runEnc m sch s) := by
  cases m <;> rfl

/-- The output segments of an ENC command for the padded data `P`. -/
def encSegments (m : ChainMode) (s : State) (P : Bytes) : List Bytes :=
  modeEncSegments m s.params.cipher (ivOperand s.params.cipher.bs s)
    (segments s.params.cipher.bs P)

theorem encSegments_length (m : ChainMode) (s : State) (P : Bytes) :
    (encSegments m s P).length = segmentCount s.params.cipher.bs P.length := by
  rw [encSegments, modeEncSegments_length, segments_length]

theorem encSegments_flatten_length {m : ChainMode} {s : State} (hbs : 1 ≤ s.params.cipher.bs)
    (P : Bytes) : (encSegments m s P).flatten.length = P.length :=
  modeEnc_length m hbs (ivOperand_length _ s) P

theorem runEnc_of_refusal {m : ChainMode} {sch : Scheme} {s : State} {e : Err}
    (h : encRefusal m sch s = some e) : runEnc m sch s = raiseError e s := by
  unfold runEnc
  rw [← encRefusal_eq_encChecks, h]

section
variable {m : ChainMode} {sch : Scheme} {s u : State} {R : Bytes}

theorem runEnc_of_fill_fails (h : encRefusal m sch s = none)
    (hfill : fillBytes sch s.inLen.toNat s.params.cipher.bs s = (none, u)) :
    runEnc m sch s = raiseError .rngFail u := by
  unfold runEnc
  rw [← encRefusal_eq_encChecks, h, padStep_eq, dataOperand_length, hfill]
  rfl

theorem runEnc_of_fill (h : encRefusal m sch s = none)
    (hfill : fillBytes sch s.inLen.toNat s.params.cipher.bs s = (some R, u)) :
    runEnc m sch s =
      commit (encSegments m s (paddedData sch s R)).flatten
        (encSegments m s (paddedData sch s R)).length false u := by
  unfold runEnc
  rw [← encRefusal_eq_encChecks, h, padStep_eq, dataOperand_length, hfill, encSegments_length]
  rfl

theorem runEnc_failed (h : encRefusal m sch s = none)
    (hfill : fillBytes sch s.inLen.toNat s.params.cipher.bs s = (none, u)) :
    Failed s (runEnc m sch s) .rngFail := by
  rw [runEnc_of_fill_fails h hfill]
  exact (raiseError_failed u .rngFail).of_oracle (fillBytes_oracle hfill)

/-- An ENC command that passes its checks and has its random bytes commits its segments of the
padded data. -/
theorem runEnc_completed (h : encRefusal m sch s = none)
    (hfill : fillBytes sch s.inLen.toNat s.params.cipher.bs s = (some R, u)) :
    Completed s (runEnc m sch s) (encSegments m s (paddedData sch s R)).flatten
      (encSegments m s (paddedData sch s R)).length false := by
  have hlegal := (encRefusal_eq_none_iff.1 h).1
  have hlen := paddedData_length_le hlegal (fillBytes_length (congrArg Prod.fst hfill))
  have hcount := segmentCount_le s.params.cipher.bs (paddedData sch s R).length hlegal.bs_pos
  have hcap := inCap_le s.params
  have ho := fillBytes_oracle hfill
  have hp : u.params = s.params := by rw [ho]
  rw [runEnc_of_fill h hfill]
  refine (commit_completed u _ _ false ?_ ?_).of_oracle ho
  · rw [encSegments_flatten_length hlegal.bs_pos, hp, outCap_eq]
    omega
  · rw [encSegments_length]
    omega

/-- Every ENC command commits its mode's segments of the padded data, or the error of its first
failing check or of the random source. -/
theorem encResult_runEnc {chain : Bytes → List Bytes → Prop}
    (hchain : ∀ P, chain P (encSegments m s P)) : EncResult m sch s (runEnc m sch s) chain := by
  unfold EncResult
  cases h : encRefusal m sch s with
  | some e =>
    rw [runEnc_of_refusal h]
    exact ⟨raiseError_failed s e, rfl, rfl⟩
  | none =>
    obtain ⟨fill, u, hfill⟩ : ∃ fill u, fillBytes sch s.inLen.toNat s.params.cipher.bs s =
      (fill, u) := ⟨_, _, rfl⟩
    simp only [hfill]
    cases fill with
    | none =>
      refine ⟨?_, ?_, runEnc_failed h hfill⟩ <;> rw [runEnc_of_fill_fails h hfill] <;> rfl
    | some R =>
      refine ⟨?_, ?_, _, encSegments_length m s _, hchain _, runEnc_completed h hfill⟩ <;>
        rw [runEnc_of_fill h hfill] <;> rfl

end

/-! ### The ENC commands -/

section
variable {s : State} {P : Bytes} {i : Nat}

/-- Segment i of what ENC is given, for each segment i that it outputs. -/
theorem segments_getD_of_lt_encSegments {m : ChainMode} (h : i < (encSegments m s P).length) :
    i < (segments s.params.cipher.bs P).length ∧
      (segments s.params.cipher.bs P).getD i [] = blockAt s.params.cipher.bs P i := by
  rw [encSegments_length] at h
  exact ⟨by rwa [segments_length], segments_getD h⟩

theorem encSegments_ecb_getD (h : i < (encSegments .ecb s P).length) :
    (encSegments .ecb s P).getD i [] =
      cipherE s.params.cipher (blockAt s.params.cipher.bs P i) := by
  obtain ⟨hi, hblock⟩ := segments_getD_of_lt_encSegments h
  rw [← hblock]
  simp [encSegments, modeEncSegments, ecbEnc, hi]

theorem encSegments_cbc_getD (h : i < (encSegments .cbc s P).length) :
    (encSegments .cbc s P).getD i [] = cipherE s.params.cipher
      (xorBytes (blockAt s.params.cipher.bs P i)
        (before (ivOperand s.params.cipher.bs s) (encSegments .cbc s P) i)) := by
  obtain ⟨hi, hblock⟩ := segments_getD_of_lt_encSegments h
  rw [← hblock, encSegments, modeEncSegments, cbcEnc_eq_chainOut]
  exact chainOut_getD (cbcEncStep _) _ hi

theorem encSegments_cfb_getD (h : i < (encSegments .cfb s P).length) :
    (encSegments .cfb s P).getD i [] = maskedBlock s.params.cipher.bs P i (cipherE s.params.cipher
      (before (ivOperand s.params.cipher.bs s) (encSegments .cfb s P) i)) := by
  obtain ⟨hi, hblock⟩ := segments_getD_of_lt_encSegments h
  rw [maskedBlock, ← hblock, encSegments, modeEncSegments, cfbEnc_eq_chainOut]
  exact chainOut_getD (cfbStep _) _ hi

theorem encSegments_ofb_getD (h : i < (encSegments .ofb s P).length) :
    (encSegments .ofb s P).getD i [] = maskedBlock s.params.cipher.bs P i
      (ofbKeystream s.params.cipher (ivOperand s.params.cipher.bs s) i) := by
  obtain ⟨hi, hblock⟩ := segments_getD_of_lt_encSegments h
  rw [maskedBlock, ← hblock, encSegments, modeEncSegments, ofbApply_eq_maskAll]
  exact maskAll_getD _ hi

theorem encSegments_ctr_getD (h : i < (encSegments .ctr s P).length) :
    (encSegments .ctr s P).getD i [] = maskedBlock s.params.cipher.bs P i
      (ctrKeystream s.params.cipher (ivOperand s.params.cipher.bs s) i) := by
  obtain ⟨hi, hblock⟩ := segments_getD_of_lt_encSegments h
  rw [maskedBlock, ← hblock, encSegments, modeEncSegments, ctrApply_eq_maskAll,
    maskAll_getD _ hi, Nat.zero_add]
  rfl

end

/-- Settles O22: ECB maps E over the segments. -/
theorem encEcbChain : Obligations.EncEcbChain := fun sch =>
  ⟨decode_encRow .ecb sch, fun _ => ⟨_, rfl, encResult_runEnc fun _ _ => encSegments_ecb_getD⟩⟩

/-- Settles O23: each output is what the next step takes. -/
theorem encCbcChain : Obligations.EncCbcChain := fun sch =>
  ⟨decode_encRow .cbc sch, fun _ => ⟨_, rfl, encResult_runEnc fun _ _ => encSegments_cbc_getD⟩⟩

/-- Settles O24: each output, enciphered, masks the next segment. -/
theorem encCfbChain : Obligations.EncCfbChain := fun sch =>
  ⟨decode_encRow .cfb sch, fun _ => ⟨_, rfl, encResult_runEnc fun _ _ => encSegments_cfb_getD⟩⟩

/-- Settles O25: the keystream is E iterated on the IV. -/
theorem encOfbChain : Obligations.EncOfbChain := fun sch =>
  ⟨decode_encRow .ofb sch, fun _ => ⟨_, rfl, encResult_runEnc fun _ =>
    ⟨ofbKeystream _ _, rfl, ofbKeystream_succ _ _, fun _ => encSegments_ofb_getD⟩⟩⟩

/-- Settles O26: a counter block is the bytes of the counter modulo 256^bs. -/
theorem encCtrChain : Obligations.EncCtrChain := fun sch =>
  ⟨decode_encRow .ctr sch, fun _ => ⟨_, rfl, encResult_runEnc fun _ _ hi =>
    ⟨counterBlock _ _ _, bigEndianBytes_length _ _, bigEndian_bigEndianBytes _ _,
      encSegments_ctr_getD hi⟩⟩⟩

/-! ### The DEC command flow -/

theorem exec_decInstr (m : ChainMode) (sch : Scheme) (s : State) :
    exec (decInstr m sch) s = .next (runDec m sch s) := by
  cases m <;> rfl

/-- The segments that a DEC command unpads. -/
def decSegments (m : ChainMode) (s : State) : List Bytes :=
  modeDecSegments m s.params.cipher (ivOperand s.params.cipher.bs s)
    (segments s.params.cipher.bs (dataOperand s))

theorem decSegments_length (m : ChainMode) (s : State) :
    (decSegments m s).length = segmentCount s.params.cipher.bs s.inLen.toNat := by
  rw [decSegments, modeDecSegments_length, segments_length, dataOperand_length]

section
variable {m : ChainMode} {sch : Scheme} {s : State}

theorem runDec_of_refusal {e : Err} (h : decRefusal m sch s = some e) :
    runDec m sch s = raiseError e s := by
  unfold runDec
  rw [← decRefusal_eq_decChecks, h]

theorem runDec_of_pass (h : decRefusal m sch s = none) :
    runDec m sch s = commit (unpadFn sch (decSegments m s).flatten).1 (decSegments m s).length
      (unpadFn sch (decSegments m s).flatten).2 s := by
  unfold runDec
  rw [← decRefusal_eq_decChecks, h, decSegments_length, ← dataOperand_length]
  rfl

/-- A DEC command that passes its checks commits the unpadded segments; no failure is left. -/
theorem runDec_completed (h : decRefusal m sch s = none) :
    Completed s (runDec m sch s) (unpadFn sch (decSegments m s).flatten).1
      (decSegments m s).length (unpadFn sch (decSegments m s).flatten).2 := by
  have hlegal := (decRefusal_eq_none_iff.1 h).1
  have hin := hlegal.inLen
  have hcap := inCap_le s.params
  have hcount := segmentCount_le s.params.cipher.bs s.inLen.toNat hlegal.bs_pos
  have hunpad := unpadFn_length_le sch (decSegments m s).flatten
  have hdec : (decSegments m s).flatten.length ≤ (dataOperand s).length :=
    modeDec_length_le m s.params.cipher _ (dataOperand s) hlegal.bs_pos
  rw [dataOperand_length] at hdec
  rw [runDec_of_pass h]
  refine commit_completed s _ _ _ ?_ ?_
  · rw [outCap_eq]
    omega
  · rw [decSegments_length]
    omega

/-- Every DEC command commits its mode's segments of the data, unpadded, or the error of its first
failing check. -/
theorem decResult_runDec {chain : List Bytes → Prop} (hchain : chain (decSegments m s)) :
    DecResult m sch s (runDec m sch s) chain := by
  unfold DecResult
  cases h : decRefusal m sch s with
  | some e =>
    rw [runDec_of_refusal h]
    exact ⟨⟨rfl, rfl⟩, raiseError_failed s e⟩
  | none =>
    refine ⟨?_, _, decSegments_length m s, hchain, runDec_completed h⟩
    rw [runDec_of_pass h]
    exact ⟨rfl, rfl⟩

end

/-! ### The DEC commands -/

section
variable {s : State} {i : Nat}

/-- Segment i of the data, for each segment i that DEC makes. -/
theorem segments_getD_of_lt_decSegments {m : ChainMode} (h : i < (decSegments m s).length) :
    i < (segments s.params.cipher.bs (dataOperand s)).length ∧
      (segments s.params.cipher.bs (dataOperand s)).getD i [] =
        blockAt s.params.cipher.bs (dataOperand s) i := by
  rw [decSegments_length, ← dataOperand_length] at h
  exact ⟨by rwa [segments_length], segments_getD h⟩

/-- The segment of the data before segment i, or the IV. -/
theorem before_segments_of_lt_decSegments {m : ChainMode} (h : i < (decSegments m s).length) :
    before (ivOperand s.params.cipher.bs s) (segments s.params.cipher.bs (dataOperand s)) i =
      if i = 0 then ivOperand s.params.cipher.bs s
      else blockAt s.params.cipher.bs (dataOperand s) (i - 1) := by
  rw [decSegments_length, ← dataOperand_length] at h
  exact before_segments h

theorem decSegments_ecb_getD (h : i < (decSegments .ecb s).length) :
    (decSegments .ecb s).getD i [] =
      cipherD s.params.cipher (blockAt s.params.cipher.bs (dataOperand s) i) := by
  obtain ⟨hi, hblock⟩ := segments_getD_of_lt_decSegments h
  rw [← hblock]
  simp [decSegments, modeDecSegments, ecbDec, hi]

theorem decSegments_cbc_getD (h : i < (decSegments .cbc s).length) :
    (decSegments .cbc s).getD i [] = xorBytes
      (cipherD s.params.cipher (blockAt s.params.cipher.bs (dataOperand s) i))
      (if i = 0 then ivOperand s.params.cipher.bs s
        else blockAt s.params.cipher.bs (dataOperand s) (i - 1)) := by
  obtain ⟨hi, hblock⟩ := segments_getD_of_lt_decSegments h
  rw [← hblock, ← before_segments_of_lt_decSegments h, decSegments, modeDecSegments,
    cbcDec_eq_chainIn]
  exact chainIn_getD (cbcDecStep _) _ hi

theorem decSegments_cfb_getD (h : i < (decSegments .cfb s).length) :
    (decSegments .cfb s).getD i [] = maskedBlock s.params.cipher.bs (dataOperand s) i
      (cipherE s.params.cipher (if i = 0 then ivOperand s.params.cipher.bs s
        else blockAt s.params.cipher.bs (dataOperand s) (i - 1))) := by
  obtain ⟨hi, hblock⟩ := segments_getD_of_lt_decSegments h
  rw [maskedBlock, ← hblock, ← before_segments_of_lt_decSegments h, decSegments, modeDecSegments,
    cfbDec_eq_chainIn]
  exact chainIn_getD (cfbStep _) _ hi

end

/-- OFB and CTR have one function for both directions (42_block_modes.md R171, R174). -/
theorem decSegments_ofb (s : State) : decSegments .ofb s = encSegments .ofb s (dataOperand s) := rfl

theorem decSegments_ctr (s : State) : decSegments .ctr s = encSegments .ctr s (dataOperand s) := rfl

/-- Settles O27: ECB maps D over the segments. -/
theorem decEcbChain : Obligations.DecEcbChain := fun sch =>
  ⟨decode_decRow .ecb sch, fun _ => ⟨_, rfl, decResult_runDec fun _ => decSegments_ecb_getD⟩⟩

/-- Settles O28: each input is what the next step takes. -/
theorem decCbcChain : Obligations.DecCbcChain := fun sch =>
  ⟨decode_decRow .cbc sch, fun _ => ⟨_, rfl, decResult_runDec fun _ => decSegments_cbc_getD⟩⟩

/-- Settles O29: each input, enciphered, masks the next segment. -/
theorem decCfbChain : Obligations.DecCfbChain := fun sch =>
  ⟨decode_decRow .cfb sch, fun _ => ⟨_, rfl, decResult_runDec fun _ => decSegments_cfb_getD⟩⟩

/-- Settles O30: the segments are those of the encryption of the data. -/
theorem decOfbChain : Obligations.DecOfbChain := fun sch =>
  ⟨decode_decRow .ofb sch, fun _ => ⟨_, rfl, decResult_runDec
    ⟨ofbKeystream _ _, rfl, ofbKeystream_succ _ _, fun _ hi => by
      rw [decSegments_ofb] at hi ⊢
      exact encSegments_ofb_getD hi⟩⟩⟩

/-- Settles O31: the segments are those of the encryption of the data. -/
theorem decCtrChain : Obligations.DecCtrChain := fun sch =>
  ⟨decode_decRow .ctr sch, fun _ => ⟨_, rfl, decResult_runDec fun _ hi =>
    ⟨counterBlock _ _ _, bigEndianBytes_length _ _, bigEndian_bigEndianBytes _ _, by
      rw [decSegments_ctr] at hi ⊢
      exact encSegments_ctr_getD hi⟩⟩⟩

/-! ### The output of ENC and the round trip -/

/-- Settles O58: the segments are as long as the padded data. -/
theorem encOutputLength : Obligations.EncOutputLength := by
  intro m sch s R h hfill
  have hlegal := (encRefusal_eq_none_iff.1 h).1
  have hdone := runEnc_completed h (Prod.ext hfill rfl)
  have hout := hdone.outLen
  rw [encSegments_flatten_length hlegal.bs_pos] at hout
  refine ⟨_, exec_encInstr m sch s, hdone.done, hout, fun hsch => ?_, fun hsch => ?_⟩
  · subst hsch
    exact BitVec.eq_of_toNat_eq (hout.trans (dataOperand_length s))
  · rw [hout]
    exact paddedData_length_of_ne_none hlegal hsch (fillBytes_length hfill)

/-- An ENC command that leaves no failure has passed its checks and had its random bytes. -/
theorem exists_fill_of_not_fail {m : ChainMode} {sch : Scheme} {s : State}
    (h : encRefusal m sch s = none) (hfail : (runEnc m sch s).fail = false) :
    ∃ R u, fillBytes sch s.inLen.toNat s.params.cipher.bs s = (some R, u) := by
  obtain ⟨fill, u, hfill⟩ : ∃ fill u, fillBytes sch s.inLen.toNat s.params.cipher.bs s =
    (fill, u) := ⟨_, _, rfl⟩
  cases fill with
  | none => exact absurd ((runEnc_failed h hfill).fail.symm.trans hfail) (by simp)
  | some R => exact ⟨R, u, hfill⟩

/-- The data operand of a state whose input bytes are a string. -/
theorem dataOperand_eq_of_inByte {u : State} {Y : Bytes} (hlen : u.inLen.toNat = Y.length)
    (h : ∀ j, j < Y.length → u.inByte j = Y.getD j 0x00) : dataOperand u = Y := by
  refine List.ext_getElem (by rw [dataOperand_length, hlen]) fun i _ hi => ?_
  simp [dataOperand, h i hi, hi]

/-- The segments of DEC are those of the padded data when its data operand is the output of ENC with
the same port and IV. -/
theorem decSegments_flatten_of_encSegments {m : ChainMode} {s u : State} {P : Bytes}
    (hbs : 1 ≤ s.params.cipher.bs) (hp : u.params = s.params)
    (hiv : ivOperand s.params.cipher.bs u = ivOperand s.params.cipher.bs s)
    (hdata : dataOperand u = (encSegments m s P).flatten) :
    (decSegments m u).flatten = P := by
  rw [decSegments, hp, hiv, hdata]
  exact modeDec_modeEnc m hbs (ivOperand_length _ s) P

/-- The checks that ENC and DEC share ask only for the parameters, IV_LEN and a length that fits. -/
theorem ChainOperandsLegal.congr {m : ChainMode} {sch : Scheme} {s u : State}
    (h : ChainOperandsLegal m sch s) (hp : u.params = s.params) (hivLen : u.ivLen = s.ivLen)
    (hcap : u.inLen.toNat ≤ s.params.inCap) : ChainOperandsLegal m sch u where
  status := hp ▸ h.status
  inLen := hp ▸ hcap
  bs_pos := hp ▸ h.bs_pos
  bs_le := hp ▸ h.bs_le
  pkcs5 := hp ▸ h.pkcs5
  ivLen := hp ▸ hivLen ▸ h.ivLen

/-- The output of ENC passes the checks of DEC, whose mode undoes that of ENC and whose unpad undoes
the pad. -/
theorem runDec_of_encSegments {m : ChainMode} {sch : Scheme} {s u : State} {R : Bytes}
    (h : encRefusal m sch s = none) (hrec : Recoverable sch (dataOperand s) s.params.cipher.bs)
    (hR : R.length = fillCount sch s.inLen.toNat s.params.cipher.bs)
    (hp : u.params = s.params) (hivLen : u.ivLen = s.ivLen)
    (hiv : ivOperand s.params.cipher.bs u = ivOperand s.params.cipher.bs s)
    (hcap : u.inLen.toNat ≤ s.params.inCap)
    (hdata : dataOperand u = (encSegments m s (paddedData sch s R)).flatten) :
    Completed u (runDec m sch u) (dataOperand s) (decSegments m u).length false := by
  have hlegal := (encRefusal_eq_none_iff.1 h).1
  have hlen := congrArg List.length hdata
  rw [dataOperand_length, encSegments_flatten_length hlegal.bs_pos] at hlen
  have hpass : decRefusal m sch u = none := by
    refine decRefusal_eq_none_iff.2 ⟨hlegal.congr hp hivLen hcap, fun hm => ?_⟩
    rw [hlen, hp]
    exact paddedData_length_mod h hm hR
  have hunpad : unpadFn sch (paddedData sch s R) = (dataOperand s, false) :=
    unpadInvertsPad sch _ R _ hlegal.bs_pos hlegal.bs_le (by rwa [dataOperand_length]) hrec
  have hdone := runDec_completed hpass
  rwa [decSegments_flatten_of_encSegments hlegal.bs_pos hp hiv hdata, hunpad] at hdone

/-- Settles O56: the bytes that DEC is given are those that ENC committed, and those that DEC
commits are the data of ENC. -/
theorem encDecRoundTrip : Obligations.EncDecRoundTrip := by
  intro m sch s t u h hrec hexec hfail hp hivLen hiv hin hcap hbytes
  obtain rfl : runEnc m sch s = t :=
    Host.Outcome.next.inj ((exec_encInstr m sch s).symm.trans hexec)
  obtain ⟨R, u', hfill⟩ := exists_fill_of_not_fail h hfail
  have hR := fillBytes_length (congrArg Prod.fst hfill)
  have henc := runEnc_completed h hfill
  have hlen := henc.outLen
  rw [← hin] at hlen
  have hdata := dataOperand_eq_of_inByte hlen fun j hj =>
    (hbytes j (hlen ▸ hj)).trans (henc.out j (hj.trans_le henc.fits))
  have hdec := runDec_of_encSegments h hrec hR hp hivLen hiv hcap hdata
  refine ⟨_, exec_decInstr m sch u, hdec.done, hdec.fail, hdec.malf, hdec.err,
    BitVec.eq_of_toNat_eq (hdec.outLen.trans (dataOperand_length s)), fun j hj => ?_⟩
  have hfits := hdec.fits
  rw [dataOperand_length] at hfits
  rw [hdec.out j (hj.trans_le hfits), List.getD_eq_getElem?_getD, dataOperand_getElem? hj,
    Option.getD_some]

end Sys2Proof.Machine
end

section
/-! The arithmetic of GCM (43_gcm.md R202 to R205): the loop of the product, the recurrence of GHASH,
and the counters that mask the data. -/

namespace Sys2Proof.Machine

/-! ### Big-endian integers below a bound -/

theorem bigEndian_lt (X : Bytes) : bigEndian X < 256 ^ X.length := by
  induction X using List.reverseRecOn with
  | nil => simp [bigEndian]
  | append_singleton X b ih =>
    have hb := b.isLt
    rw [bigEndian_append_singleton, List.length_append, List.length_singleton, Nat.pow_succ]
    omega

/-- BEbytes_k takes its argument modulo 256^k (00_scope.md R16). -/
theorem bigEndianBytes_congr {k v w : Nat} (h : v % 256 ^ k = w % 256 ^ k) :
    bigEndianBytes k v = bigEndianBytes k w := by
  induction k generalizing v w with
  | zero => rfl
  | succ k ih =>
    have hlow : v % 256 = w % 256 := by
      rw [Nat.pow_succ'] at h
      rw [← Nat.mod_mul_right_mod v 256 (256 ^ k), h, Nat.mod_mul_right_mod]
    have hhigh : v / 256 % 256 ^ k = w / 256 % 256 ^ k := by
      rw [Nat.pow_succ'] at h
      rw [← Nat.mod_mul_right_div_self v 256, h, Nat.mod_mul_right_div_self]
    have hbyte : BitVec.ofNat 8 v = BitVec.ofNat 8 w :=
      BitVec.eq_of_toNat_eq (by simpa using hlow)
    rw [bigEndianBytes_succ, bigEndianBytes_succ, ih hhigh, hbyte]

/-! ### The product -/

/-- V_i of 43_gcm.md R202. -/
def gfV (y i : Nat) : Nat := gfHalve^[i] y

/-- Z_i of 43_gcm.md R202. -/
def gfZ (x y : Nat) : Nat → Nat
  | 0 => 0
  | i + 1 => if (x >>> (127 - i)) % 2 = 1 then gfZ x y i ^^^ gfV y i else gfZ x y i

theorem gfV_succ (y i : Nat) : gfV y (i + 1) = gfHalve (gfV y i) :=
  Function.iterate_succ_apply' _ _ _

theorem gfHalve_lt {V : Nat} (h : V < 2 ^ 128) : gfHalve V < 2 ^ 128 := by
  have hhalf : V >>> 1 < 2 ^ 128 := by
    rw [Nat.shiftRight_eq_div_pow]
    omega
  unfold gfHalve
  split
  · exact hhalf
  · exact Nat.xor_lt_two_pow hhalf (by decide)

theorem gfV_lt {y : Nat} (h : y < 2 ^ 128) (i : Nat) : gfV y i < 2 ^ 128 := by
  induction i with
  | zero => exact h
  | succ i ih =>
    rw [gfV_succ]
    exact gfHalve_lt ih

theorem gfZ_lt (x : Nat) {y : Nat} (h : y < 2 ^ 128) (i : Nat) : gfZ x y i < 2 ^ 128 := by
  induction i with
  | zero => exact Nat.two_pow_pos 128
  | succ i ih =>
    unfold gfZ
    split
    · exact Nat.xor_lt_two_pow ih (gfV_lt h i)
    · exact ih

/-- The model counts the rounds down, so its bit n is bit i of the block with i = 127 - n. -/
theorem gfRounds_eq_gfZ (x y : Nat) {n i : Nat} (h : i + n = 128) :
    gfRounds x n (gfZ x y i) (gfV y i) = gfZ x y 128 := by
  induction n generalizing i with
  | zero =>
    obtain rfl : i = 128 := h
    rfl
  | succ n ih =>
    have hbit : x.testBit n = true ↔ (x >>> (127 - i)) % 2 = 1 := by
      rw [show 127 - i = n by omega, Nat.testBit_eq_decide_div_mod_eq, decide_eq_true_iff,
        Nat.shiftRight_eq_div_pow]
    have hround : (if x.testBit n then gfZ x y i ^^^ gfV y i else gfZ x y i) = gfZ x y (i + 1) :=
      if_congr hbit rfl rfl
    rw [gfRounds, hround, ← gfV_succ]
    exact ih (by omega)

theorem gfMul_length (X Y : Bytes) : (gfMul X Y).length = 16 := bigEndianBytes_length _ _

theorem bigEndian_gfMul (X : Bytes) {Y : Bytes} (hY : Y.length = 16) :
    bigEndian (gfMul X Y) = gfZ (bigEndian X) (bigEndian Y) 128 := by
  have hlt : bigEndian Y < 2 ^ 128 :=
    calc bigEndian Y < 256 ^ Y.length := bigEndian_lt Y
      _ = 2 ^ 128 := by rw [hY]; rfl
  rw [gfMul, bigEndian_bigEndianBytes]
  calc gfRounds (bigEndian X) 128 0 (bigEndian Y) % 256 ^ 16
      = gfZ (bigEndian X) (bigEndian Y) 128 % 2 ^ 128 :=
        congrArg (· % 2 ^ 128) (gfRounds_eq_gfZ (bigEndian X) (bigEndian Y) (i := 0) rfl)
    _ = gfZ (bigEndian X) (bigEndian Y) 128 := Nat.mod_eq_of_lt (gfZ_lt _ hlt 128)

/-! ### GHASH -/

/-- Y_j of 43_gcm.md R203: GHASH over the first j blocks. -/
def ghashPrefix (H S : Bytes) (j : Nat) : Bytes :=
  ((segments 16 S).take j).foldl (fun Y B => gfMul (xorBytes Y B) H) zeroBlock

theorem ghashPrefix_zero (H S : Bytes) : ghashPrefix H S 0 = List.replicate 16 0x00 := rfl

theorem ghashPrefix_succ (H : Bytes) {S : Bytes} {j : Nat} (h : j < segmentCount 16 S.length) :
    ghashPrefix H S (j + 1) = gfMul (xorBytes (ghashPrefix H S j) (blockAt 16 S j)) H := by
  have hblock : (segments 16 S)[j]? = some (blockAt 16 S j) := cutSegments_getElem? _ _ _ _ h
  rw [ghashPrefix, List.take_add_one, hblock, List.foldl_append]
  rfl

theorem ghash_eq_ghashPrefix (H S : Bytes) :
    ghash H S = ghashPrefix H S (segmentCount 16 S.length) := by
  rw [ghashPrefix, ← segments_length, List.take_length]
  rfl

theorem ghash_length (H S : Bytes) : (ghash H S).length = 16 := by
  rw [ghash_eq_ghashPrefix]
  cases hq : segmentCount 16 S.length with
  | zero => rfl
  | succ q => rw [ghashPrefix_succ H (by omega), gfMul_length]

theorem segmentCount_mul_self (q : Nat) : segmentCount 16 (16 * q) = q := by
  unfold segmentCount
  omega

/-- Settles O34: the loop's values are bounded by 2^128, so the product's bytes hold Z_128 whole, and
the fold over the blocks is the recurrence. -/
theorem gfProductAndGhash : Obligations.GfProductAndGhash := by
  refine ⟨fun X Y _ hY => ⟨gfZ (bigEndian X) (bigEndian Y), gfV (bigEndian Y), rfl, rfl,
    fun i _ => ⟨rfl, gfV_succ _ _⟩, gfMul_length X Y, bigEndian_gfMul X hY⟩,
    fun H S q _ hS => ?_⟩
  have hq : segmentCount 16 S.length = q := by rw [hS, segmentCount_mul_self]
  exact ⟨ghashPrefix H S, ghashPrefix_zero H S, fun j hj => ghashPrefix_succ H (hq ▸ hj),
    hq ▸ ghash_eq_ghashPrefix H S⟩

/-! ### The counters -/

/-- K_i of GCM: E of the counter block N ++ (i + 2), counter 1 being the tag's
(43_gcm.md R204 to R206). -/
def gcmKeystream (c : CipherPort) (N : Bytes) (i : Nat) : Bytes :=
  cipherE c (N ++ bigEndianBytes 4 (i + 2))

theorem gcmKeystream_length (c : CipherPort) {N : Bytes} (hN : N.length = 12) (i : Nat) :
    (gcmKeystream c N i).length = 16 := by
  rw [gcmKeystream, cipherE_length, List.length_append, bigEndianBytes_length, hN]

theorem gcmJ0_eq_append (N : Bytes) : gcmJ0 N = N ++ bigEndianBytes 4 1 := rfl

/-- inc32 counts in the last four bytes, modulo 2^32. -/
theorem inc32_append {N : Bytes} (hN : N.length = 12) (v : Nat) :
    inc32 (N ++ bigEndianBytes 4 v) = N ++ bigEndianBytes 4 (v + 1) := by
  rw [inc32, List.take_left' hN, List.drop_left' hN, bigEndian_bigEndianBytes,
    bigEndianBytes_congr (Nat.mod_add_mod v _ 1)]

theorem gctrSegments_eq_maskAll (c : CipherPort) {N : Bytes} (hN : N.length = 12) (v : Nat)
    (X : List Bytes) :
    gctrSegments c (N ++ bigEndianBytes 4 v) X =
      maskAll (fun i => cipherE c (N ++ bigEndianBytes 4 (i + v))) X := by
  induction X generalizing v with
  | nil => rfl
  | cons x X ih =>
    simp only [gctrSegments, inc32_append hN, ih, maskAll, List.mapIdx_cons, Nat.zero_add,
      Nat.add_assoc, Nat.add_comm 1]

/-! ### Masked data -/

/-- The segments of a string, masked with GCM's keystream. -/
def gcmSegments (c : CipherPort) (N X : Bytes) : List Bytes :=
  maskAll (gcmKeystream c N) (segments 16 X)

theorem gctr_eq_flatten (c : CipherPort) {N : Bytes} (hN : N.length = 12) (X : Bytes) :
    gctr c (inc32 (gcmJ0 N)) X = (gcmSegments c N X).flatten := by
  rw [gctr, gcmJ0_eq_append, inc32_append hN, gctrSegments_eq_maskAll c hN]
  rfl

theorem gcmSegments_length (c : CipherPort) (N X : Bytes) :
    (gcmSegments c N X).length = segmentCount 16 X.length := by
  rw [gcmSegments, maskAll, List.length_mapIdx, segments_length]

theorem gcmSegments_getD {c : CipherPort} {N X : Bytes} {i : Nat}
    (h : i < (gcmSegments c N X).length) :
    (gcmSegments c N X).getD i [] = maskedBlock 16 X i (gcmKeystream c N i) := by
  rw [gcmSegments_length] at h
  rw [gcmSegments, maskAll_getD _ (by rwa [segments_length]), segments_getD h]
  rfl

/-- A segment is masked whole. -/
theorem le_gcmKeystream (c : CipherPort) {N : Bytes} (hN : N.length = 12) {X : Bytes} :
    ∀ x ∈ segments 16 X, ∀ i, x.length ≤ (gcmKeystream c N i).length := fun x hx i => by
  have hle := length_le_of_mem_cutSegments hx
  rw [gcmKeystream_length c hN]
  omega

theorem map_length_gcmSegments (c : CipherPort) {N : Bytes} (hN : N.length = 12) (X : Bytes) :
    (gcmSegments c N X).map List.length = (segments 16 X).map List.length :=
  map_length_maskAll (le_gcmKeystream c hN)

theorem gcmSegments_flatten_length (c : CipherPort) {N : Bytes} (hN : N.length = 12) (X : Bytes) :
    (gcmSegments c N X).flatten.length = X.length := by
  rw [length_flatten_congr (map_length_gcmSegments c hN X), segments_flatten 16 X (by decide)]

/-- Masking twice gives the data back (43_gcm.md R211). -/
theorem gcmSegments_gcmSegments (c : CipherPort) {N : Bytes} (hN : N.length = 12) (X : Bytes) :
    (gcmSegments c N (gcmSegments c N X).flatten).flatten = X :=
  calc (gcmSegments c N (gcmSegments c N X).flatten).flatten
      = (maskAll (gcmKeystream c N) (gcmSegments c N X)).flatten := by
        rw [gcmSegments, segments_flatten_of_lengths (by decide) (map_length_gcmSegments c hN X)]
    _ = (segments 16 X).flatten := by
        rw [gcmSegments, maskAll_maskAll (le_gcmKeystream c hN)]
    _ = X := segments_flatten 16 X (by decide)

/-! ### The tag -/

/-- The tag with its string written out: the AAD's length is 8 zero bytes (43_gcm.md R205). -/
theorem gcmTag_eq (c : CipherPort) (N C : Bytes) :
    gcmTag c N C = xorBytes (cipherE c (N ++ [0x00, 0x00, 0x00, 0x01]))
      (ghash (cipherE c (List.replicate 16 0x00))
        (C ++ List.replicate (16 * ((C.length + 15) / 16) - C.length) 0x00 ++
          List.replicate 8 0x00 ++ bigEndianBytes 8 (8 * C.length))) := rfl

theorem gcmTag_length (c : CipherPort) {N : Bytes} (hN : N.length = 12) (C : Bytes) :
    (gcmTag c N C).length = 16 := by
  have hlen : (cipherE c (gcmJ0 N)).length = 16 := by
    rw [cipherE_length, gcmJ0_eq_append, List.length_append, bigEndianBytes_length, hN]
  rw [gcmTag, xorBytes_length _ _ (by rw [hlen, ghash_length]), hlen]

end Sys2Proof.Machine
end

section
/-! The two GCM commands (43_gcm.md R206, R207, R211): what each command flow leaves, and the round
trip. -/

namespace Sys2Proof.Machine

/-! ### The checks -/

/-- The checks in the order of 43_gcm.md R206 are the model's. -/
theorem gcmRefusal_eq_gcmChecks (s : State) : gcmRefusal s = gcmChecks s := by
  unfold gcmRefusal gcmChecks
  simp only [checkCipher_eq_ite]
  unfold firstError checkInLen checkBlockSize checkGcmBlockSize checkNonceLen
  split_ifs <;> rfl

theorem gcmRefusal_none {s : State} (h : gcmRefusal s = none) :
    s.inLen.toNat ≤ s.params.inCap :=
  gcmChecks_none (gcmRefusal_eq_gcmChecks s ▸ h)

/-- The checks ask only for the parameters, IV_LEN and a length that fits. -/
theorem gcmRefusal_none_congr {s u : State} (h : gcmRefusal s = none) (hp : u.params = s.params)
    (hivLen : u.ivLen = s.ivLen) (hcap : u.inLen.toNat ≤ s.params.inCap) :
    gcmRefusal u = none := by
  simp only [gcmRefusal, errorIf_eq_none_iff] at h ⊢
  obtain ⟨hstatus, _, hrange, hbs, hnonce, _⟩ := h
  rw [hp, hivLen]
  exact ⟨hstatus, hcap.not_gt, hrange, hbs, hnonce, trivial⟩

/-! ### The ENC.GCM command flow -/

/-- The segments of ENC.GCM's ciphertext. -/
def sealSegments (s : State) : List Bytes :=
  gcmSegments s.params.cipher (ivOperand 12 s) (dataOperand s)

/-- T of ENC.GCM (43_gcm.md R206). -/
def sealTag (s : State) : Bytes :=
  gcmTag s.params.cipher (ivOperand 12 s) (sealSegments s).flatten

theorem sealSegments_length (s : State) :
    (sealSegments s).length = segmentCount 16 s.inLen.toNat := by
  rw [sealSegments, gcmSegments_length, dataOperand_length]

theorem sealSegments_flatten_length (s : State) :
    (sealSegments s).flatten.length = s.inLen.toNat := by
  rw [sealSegments, gcmSegments_flatten_length _ (ivOperand_length 12 s), dataOperand_length]

theorem sealTag_length (s : State) : (sealTag s).length = 16 :=
  gcmTag_length _ (ivOperand_length 12 s) _

section
variable {s : State}

theorem runEncGcm_of_refusal {e : Err} (h : gcmRefusal s = some e) :
    runEncGcm s = raiseError e s := by
  unfold runEncGcm
  rw [← gcmRefusal_eq_gcmChecks, h]

theorem runEncGcm_of_pass (h : gcmRefusal s = none) :
    runEncGcm s =
      commit ((sealSegments s).flatten ++ sealTag s) (sealSegments s).length false s := by
  unfold runEncGcm
  rw [← gcmRefusal_eq_gcmChecks, h, sealSegments_length, ← dataOperand_length]
  simp only [gctr_eq_flatten _ (ivOperand_length 12 s)]
  rfl

theorem runEncGcm_completed (h : gcmRefusal s = none) :
    Completed s (runEncGcm s) ((sealSegments s).flatten ++ sealTag s) (sealSegments s).length
      false := by
  have hin := gcmRefusal_none h
  have hcap := inCap_le s.params
  have hcount := segmentCount_le 16 s.inLen.toNat (by decide)
  rw [runEncGcm_of_pass h]
  refine commit_completed s _ _ _ ?_ ?_
  · rw [List.length_append, sealSegments_flatten_length, sealTag_length, outCap_eq]
    omega
  · rw [sealSegments_length]
    omega

end

theorem runEncGcm_oracle (s : State) : OracleUnused s (runEncGcm s) := by
  cases h : gcmRefusal s with
  | some e => rw [runEncGcm_of_refusal h]; exact ⟨rfl, rfl⟩
  | none => rw [runEncGcm_of_pass h]; exact ⟨rfl, rfl⟩

/-- Settles O32: the counters from 2 on mask the segments and counter 1 the hash. -/
theorem encGcmSealsData : Obligations.EncGcmSealsData := by
  refine ⟨decode_encode .encGcm, fun s => ⟨_, rfl, runEncGcm_oracle s, ?_⟩⟩
  cases h : gcmRefusal s with
  | some e => exact runEncGcm_of_refusal h ▸ raiseError_failed s e
  | none =>
    simp only [← gcmTag_eq]
    exact ⟨sealSegments s, sealSegments_length s, fun _ hi => gcmSegments_getD hi,
      sealSegments_flatten_length s, sealTag_length s, runEncGcm_completed h⟩

/-! ### The DEC.GCM command flow -/

/-- C of DEC.GCM: the data but its last 16 bytes (43_gcm.md R207). -/
def sealedData (s : State) : Bytes := (dataOperand s).take (s.inLen.toNat - 16)

/-- T of DEC.GCM: the last 16 bytes of the data (43_gcm.md R207). -/
def sealedTag (s : State) : Bytes := (dataOperand s).drop (s.inLen.toNat - 16)

/-- The segments of DEC.GCM's plaintext. -/
def openSegments (s : State) : List Bytes :=
  gcmSegments s.params.cipher (ivOperand 12 s) (sealedData s)

theorem sealedData_length (s : State) : (sealedData s).length = s.inLen.toNat - 16 := by
  rw [sealedData, List.length_take, dataOperand_length]
  omega

theorem openSegments_length (s : State) :
    (openSegments s).length = segmentCount 16 (s.inLen.toNat - 16) := by
  rw [openSegments, gcmSegments_length, sealedData_length]

theorem openSegments_flatten_length (s : State) :
    (openSegments s).flatten.length = s.inLen.toNat - 16 := by
  rw [openSegments, gcmSegments_flatten_length _ (ivOperand_length 12 s), sealedData_length]

section
variable {s : State}

theorem runDecGcm_of_refusal {e : Err} (h : gcmRefusal s = some e) :
    runDecGcm s = raiseError e s := by
  unfold runDecGcm
  rw [← gcmRefusal_eq_gcmChecks, h]

/-- DEC.GCM once its checks pass: too short, then a wrong tag, else the unmasked data. -/
theorem runDecGcm_of_pass (h : gcmRefusal s = none) :
    runDecGcm s =
      if s.inLen.toNat < 16 then raiseError .tooShort s
      else if gcmTag s.params.cipher (ivOperand 12 s) (sealedData s) ≠ sealedTag s then
        raiseError .tagMismatch s
      else commit (openSegments s).flatten (openSegments s).length false s := by
  unfold runDecGcm
  rw [← gcmRefusal_eq_gcmChecks, h, openSegments_length, ← sealedData_length]
  simp only [gctr_eq_flatten _ (ivOperand_length 12 s), dataOperand_length]
  rfl

theorem runDecGcm_tooShort (h : gcmRefusal s = none) (h16 : s.inLen.toNat < 16) :
    Failed s (runDecGcm s) .tooShort := by
  rw [runDecGcm_of_pass h, if_pos h16]
  exact raiseError_failed s .tooShort

theorem runDecGcm_tagMismatch (h : gcmRefusal s = none) (h16 : 16 ≤ s.inLen.toNat)
    (htag : gcmTag s.params.cipher (ivOperand 12 s) (sealedData s) ≠ sealedTag s) :
    Failed s (runDecGcm s) .tagMismatch := by
  rw [runDecGcm_of_pass h, if_neg h16.not_gt, if_pos htag]
  exact raiseError_failed s .tagMismatch

/-- DEC.GCM on data that ends in the tag of what is before it. -/
theorem runDecGcm_completed (h : gcmRefusal s = none) (h16 : 16 ≤ s.inLen.toNat)
    (htag : gcmTag s.params.cipher (ivOperand 12 s) (sealedData s) = sealedTag s) :
    Completed s (runDecGcm s) (openSegments s).flatten (openSegments s).length false := by
  have hin := gcmRefusal_none h
  have hcap := inCap_le s.params
  have hcount := segmentCount_le 16 (s.inLen.toNat - 16) (by decide)
  rw [runDecGcm_of_pass h, if_neg h16.not_gt, if_neg (not_not.2 htag)]
  refine commit_completed s _ _ _ ?_ ?_
  · rw [openSegments_flatten_length, outCap_eq]
    omega
  · rw [openSegments_length]
    omega

end

theorem runDecGcm_oracle (s : State) : OracleUnused s (runDecGcm s) := by
  cases h : gcmRefusal s with
  | some e => rw [runDecGcm_of_refusal h]; exact ⟨rfl, rfl⟩
  | none => rw [runDecGcm_of_pass h]; split_ifs <;> exact ⟨rfl, rfl⟩

/-- Settles O33: each of the two further errors commits no output. -/
theorem decGcmOpensData : Obligations.DecGcmOpensData := by
  refine ⟨decode_encode .decGcm, fun s => ⟨_, rfl, runDecGcm_oracle s, ?_⟩⟩
  cases h : gcmRefusal s with
  | some e => exact runDecGcm_of_refusal h ▸ raiseError_failed s e
  | none =>
    dsimp only
    split_ifs with h16 htag
    · exact runDecGcm_tooShort h h16
    · rw [← gcmTag_eq] at htag
      exact runDecGcm_tagMismatch h (not_lt.1 h16) htag
    · rw [not_not, ← gcmTag_eq] at htag
      exact ⟨openSegments s, openSegments_length s, fun _ hi => gcmSegments_getD hi,
        openSegments_flatten_length s, runDecGcm_completed h (not_lt.1 h16) htag⟩

/-! ### The round trip -/

/-- DEC.GCM takes the output of ENC.GCM apart where ENC.GCM put it together. -/
theorem sealedData_sealedTag_of_append {u : State} {C T : Bytes} (hdata : dataOperand u = C ++ T)
    (hT : T.length = 16) : sealedData u = C ∧ sealedTag u = T := by
  have hlen : u.inLen.toNat - 16 = C.length := by
    rw [← dataOperand_length, hdata, List.length_append, hT, Nat.add_sub_cancel]
  rw [sealedData, sealedTag, hlen, hdata]
  exact ⟨List.take_left, List.drop_left⟩

/-- The output of ENC.GCM carries its own tag, so DEC.GCM completes with the data of ENC.GCM. -/
theorem runDecGcm_of_seal {s u : State} (h : gcmRefusal s = none) (hp : u.params = s.params)
    (hivLen : u.ivLen = s.ivLen) (hiv : ivOperand 12 u = ivOperand 12 s)
    (hcap : u.inLen.toNat ≤ s.params.inCap)
    (hdata : dataOperand u = (sealSegments s).flatten ++ sealTag s) :
    Completed u (runDecGcm u) (dataOperand s) (openSegments u).length false := by
  obtain ⟨hC, hT⟩ := sealedData_sealedTag_of_append hdata (sealTag_length s)
  have hlen := congrArg List.length hdata
  rw [dataOperand_length, List.length_append, sealTag_length] at hlen
  have htag : gcmTag u.params.cipher (ivOperand 12 u) (sealedData u) = sealedTag u := by
    rw [hp, hiv, hC, hT, sealTag]
  have hplain : (openSegments u).flatten = dataOperand s := by
    rw [openSegments, hp, hiv, hC, sealSegments,
      gcmSegments_gcmSegments _ (ivOperand_length 12 s)]
  exact hplain ▸ runDecGcm_completed (gcmRefusal_none_congr h hp hivLen hcap) (by omega) htag

/-- Settles O57: the bytes that DEC.GCM is given are those that ENC.GCM committed, and those that it
commits are the data of ENC.GCM. -/
theorem gcmRoundTrip : Obligations.GcmRoundTrip := by
  intro s t u h hexec hp hivLen hiv hin hcap hbytes
  obtain rfl : runEncGcm s = t := Host.Outcome.next.inj hexec
  have henc := runEncGcm_completed h
  have hlen := henc.outLen
  rw [← hin] at hlen
  have hdata := dataOperand_eq_of_inByte hlen fun j hj =>
    (hbytes j (hlen ▸ hj)).trans (henc.out j (hj.trans_le henc.fits))
  have hdec := runDecGcm_of_seal h hp hivLen hiv hcap hdata
  refine ⟨_, rfl, hdec.done, hdec.fail, hdec.malf, hdec.err,
    BitVec.eq_of_toNat_eq (hdec.outLen.trans (dataOperand_length s)), fun j hj => ?_⟩
  have hfits := hdec.fits
  rw [dataOperand_length] at hfits
  rw [hdec.out j (hj.trans_le hfits), List.getD_eq_getElem?_getD, dataOperand_getElem? hj,
    Option.getD_some]

end Sys2Proof.Machine
end

section
/-! The two immediate commands (44_control.md R230, R231): what a CMD write of the word of either does
in each engine state, what a word with their OP and another bit set decodes to, and the flags when none
is up. -/

namespace Sys2Proof.Machine

/-! ### The word of an immediate command -/

theorem step_nextWrite_cmd_of_busy {s : State} {v : Word} (h : s.eng = .busy v) (w : Word) :
    step (s.nextWrite 0x00C w) = .next { s with response := none, werr := true } :=
  (step_nextWrite_cmd s w).trans (writeCmd_of_busy (s := { s with response := none }) h w)

theorem step_nextWrite_cmd_executes {s : State} {w : Word} {i : Instr} (h : s.eng = .idle)
    (hw : decodeImmediate w = some i) :
    step (s.nextWrite 0x00C w) = exec i { s with response := none } :=
  (step_nextWrite_cmd s w).trans (writeCmd_executes (s := { s with response := none }) h hw)

/-! ### The noncanonical words -/

theorem firstWordError_of_immediate_op {n : Nat} (h : n % 16 = 0 ∨ n % 16 = 5) :
    firstWordError n = some .noncanonImm := by
  unfold firstWordError
  rw [if_neg (by omega), if_pos h]

/-- A word with the OP of an immediate command that is not that command's word is the engine's to
decode (30_encoding.md R96, R97). -/
theorem noncanonical_accepted {w : Word} (hop : w.toNat % 16 = 0 ∨ w.toNat % 16 = 5)
    (h0 : w ≠ 0x00000000) (h5 : w ≠ 0x00000005) {s : State} (hi : s.eng = .idle) :
    step (s.nextWrite 0x00C w) = .next (accept w { s with response := none }) ∧
      decode w = .error .noncanonImm := by
  refine ⟨(commandAcceptance s w h0 h5).1 hi, ?_⟩
  rw [decode, decodeImmediate_eq_none h0 h5]
  exact decodeEngine_eq_error_iff.2 (firstWordError_of_immediate_op hop)

/-! ### NOP -/

/-- Settles O9: NOP's word runs NOP on an IDLE engine, and every other word with OP = 0 is
noncanonical. -/
theorem nopWritesCmdLast : Obligations.NopWritesCmdLast := by
  refine ⟨fun _ => rfl, fun _ hi => step_nextWrite_cmd_executes (i := .nop) hi rfl,
    fun _ _ hb => step_nextWrite_cmd_of_busy hb _, fun s w hi hop h0 => ?_⟩
  have h5 : w ≠ 0x00000005 := by rintro rfl; exact absurd hop (by decide)
  exact noncanonical_accepted (.inl hop) h0 h5 hi

/-! ### CLRSTAT -/

theorem irq_of_flags_clear {s : State} (hd : s.done = false) (hf : s.fail = false) :
    s.irq = false := by
  simp [State.irq, hd, hf]

theorem statusWord_of_flags_clear {s : State} (hi : s.eng = .idle) (hd : s.done = false)
    (hf : s.fail = false) (hm : s.malf = false) (hw : s.werr = false) :
    s.statusWord = 0x00000000 := by
  rw [State.statusWord, isBusy_of_idle hi, hd, hf, hm, hw, irq_of_flags_clear hd hf]
  rfl

/-- Settles O10: CLRSTAT's word runs CLRSTAT on an IDLE engine, which leaves no flag up, and every
other word with OP = 5 is noncanonical. -/
theorem clrstatClearsStatus : Obligations.ClrstatClearsStatus := by
  refine ⟨fun _ => rfl,
    fun _ hi => ⟨_, step_nextWrite_cmd_executes (i := .clrstat) hi rfl, rfl,
      statusWord_of_flags_clear hi rfl rfl rfl rfl, irq_of_flags_clear rfl rfl⟩,
    fun _ _ hb => step_nextWrite_cmd_of_busy hb _, fun s w hi hop h5 => ?_⟩
  have h0 : w ≠ 0x00000000 := by rintro rfl; exact absurd hop (by decide)
  exact noncanonical_accepted (.inr hop) h0 h5 hi

end Sys2Proof.Machine
end

section
/-! The table of error details (60_exceptions.md R251). -/

namespace Sys2Proof.Machine

/-- Settles O6: each row of the table is the value of `errWord` at that row's class and detail. -/
theorem errorWordsOfTheTable : Obligations.ErrorWordsOfTheTable := by
  unfold Obligations.ErrorWordsOfTheTable
  and_intros <;> rfl

end Sys2Proof.Machine
end

section
/-! What no command changes (10_state.md R40, 20_memory.md R70, 70_reset_and_hazards.md R298): the
operands. A completion keeps all of HostFrame; the two immediate commands write CMD_LAST, the flags
and ERR, so they keep less of it. -/

namespace Sys2Proof.Machine

/-- A commit and a raise both keep what HostFrame names. -/
theorem Completion.hostFrame {s t : State} (h : Completion s t) : HostFrame s t := by
  obtain ⟨u, hu, hcases⟩ := h
  have hp : u.params = s.params := by rw [hu]
  rcases hcases with ⟨Y, k, mal, hY, hk, rfl⟩ | ⟨e, rfl⟩
  · exact ((commit_completed u Y k mal (hp ▸ hY) hk).of_oracle hu).frame
  · exact ((raiseError_failed u e).of_oracle hu).frame

/-- `t` has the operands of `s`: the operand registers, CTRL, the parameters, every byte below OUTB
and the model's own record of the run. -/
structure OperandsKept (s t : State) : Prop where
  blksz : t.blksz = s.blksz
  inLen : t.inLen = s.inLen
  ivLen : t.ivLen = s.ivLen
  ieDone : t.ieDone = s.ieDone
  ieFail : t.ieFail = s.ieFail
  params : t.params = s.params
  bytes : ∀ a, a < outbBase → t.byteAt a = s.byteAt a
  schedule : t.schedule = s.schedule
  response : t.response = s.response
  powerOns : t.powerOns = s.powerOns

theorem HostFrame.operandsKept {s t : State} (h : HostFrame s t) : OperandsKept s t :=
  { h with bytes := fun a ha => h.bytes a fun hout => absurd hout.1 (Nat.not_le.2 ha) }

theorem exec_keeps_operands (i : Instr) (s : State) :
    ∃ t, exec i s = .next t ∧ OperandsKept s t := by
  rcases exec_cases i s with ⟨_, hnop⟩ | ⟨_, hclr⟩ | ⟨_, _, t, ht, hc⟩
  · exact ⟨_, hnop, rfl, rfl, rfl, rfl, rfl, rfl, fun _ _ => rfl, rfl, rfl, rfl⟩
  · exact ⟨_, hclr, rfl, rfl, rfl, rfl, rfl, rfl, fun _ _ => rfl, rfl, rfl, rfl⟩
  · exact ⟨t, ht, hc.hostFrame.operandsKept⟩

/-! ### IVB and INB -/

theorem ivb_below_outb {j : Nat} (hj : j < 256) : ivbBase + j < outbBase := by
  unfold ivbBase outbBase
  omega

theorem inb_below_outb {p : Params} {j : Nat} (hj : j < p.inCap) : inbBase + j < outbBase := by
  have hend := inbEnd_le_outbBase p
  unfold inbEnd at hend
  omega

/-- Settles O8: every command keeps all bytes below OUTB, and IVB and INB stand there. -/
theorem commandsKeepOperands : Obligations.CommandsKeepOperands := by
  intro i s
  obtain ⟨t, ht, h⟩ := exec_keeps_operands i s
  exact ⟨t, ht, h.blksz, h.inLen, h.ivLen, h.ieDone, h.ieFail, h.params,
    fun j hj => h.bytes _ (ivb_below_outb hj), fun j hj => h.bytes _ (inb_below_outb hj), h.bytes,
    h.schedule, h.response, h.powerOns⟩

end Sys2Proof.Machine
end

section
/-! The two resets (70_reset_and_hazards.md R290, R292): the registers and OUTB after each, IVB and
INB kept by a soft reset and drawn at power-on, and that of the accesses to a BUSY engine only a soft
reset discards its command. -/

namespace Sys2Proof.Machine

/-! ### Bytes that memory does not list -/

/-- A byte of OUTB is 0 where memory lists none (10_state.md R38). -/
theorem unlisted_outb (j : Nat) : unlisted (outbBase + j) = some 0x00 := by
  unfold unlisted ivbBase ivbEnd inbBase outbBase
  exact if_neg (by omega)

/-- A byte of IVB is a power-on draw where memory lists none (10_state.md R36). -/
theorem unlisted_ivb {j : Nat} (hj : j < 256) : unlisted (ivbBase + j) = none :=
  if_pos (.inl ⟨Nat.le_add_right _ _, by unfold ivbBase ivbEnd; omega⟩)

/-- A byte of INB is a power-on draw where memory lists none (10_state.md R37). -/
theorem unlisted_inb {p : Params} {j : Nat} (hj : j < p.inCap) : unlisted (inbBase + j) = none :=
  if_pos (.inr ⟨Nat.le_add_right _ _, inb_below_outb hj⟩)

section EmptyMemory
variable {s : State}

theorem outByte_of_mem_nil (h : s.mem = []) (j : Nat) : s.outByte j = 0x00 := by
  unfold State.outByte State.byteAt
  rw [h, read_nil, unlisted_outb]

/-- Where memory lists nothing, IVB and INB hold the draws of the last power-on (log 6). -/
theorem byteAt_of_mem_nil (h : s.mem = []) {a : Nat} (ha : unlisted a = none) :
    s.byteAt a = Config.powerOnByte s.powerOns a := by
  unfold State.byteAt
  rw [h, read_nil, ha]

theorem input_bytes_of_mem_nil (h : s.mem = []) :
    (∀ j, j < 256 → s.ivByte j = Config.powerOnByte s.powerOns (0x100 + j)) ∧
    (∀ j, j < s.params.inCap → s.inByte j = Config.powerOnByte s.powerOns (0x1000 + j)) :=
  ⟨fun _ hj => byteAt_of_mem_nil h (unlisted_ivb hj),
    fun _ hj => byteAt_of_mem_nil h (unlisted_inb hj)⟩

end EmptyMemory

/-! ### What each reset leaves -/

theorem softReset_byteAt (s : State) {a : Nat} (ha : ¬(outbBase ≤ a ∧ a < outbEnd s.params)) :
    (softReset s).byteAt a = s.byteAt a :=
  setOutput_byteAt s (softReset s) [] rfl rfl (Nat.zero_le _) a ha

theorem softReset_byteAt_below_outb (s : State) {a : Nat} (ha : a < outbBase) :
    (softReset s).byteAt a = s.byteAt a :=
  softReset_byteAt s fun hout => absurd hout.1 (Nat.not_le.2 ha)

theorem softReset_afterReset (s : State) : AfterReset s (softReset s) where
  idle := rfl
  ieDone := rfl
  ieFail := rfl
  cmdLast := rfl
  status := statusWord_of_flags_clear rfl rfl rfl rfl rfl
  werr := rfl
  done := rfl
  fail := rfl
  malf := rfl
  blksz := rfl
  err := rfl
  inLen := rfl
  outLen := rfl
  ivLen := rfl
  blocks := rfl
  out := fun j hj => outByte_setOutput (softReset s) s.mem s.params [] rfl j hj
  irq := irq_of_flags_clear rfl rfl
  params := rfl
  rng := rfl
  draws := rfl
  schedule := rfl

/-- The registers are those of a soft reset, and memory lists nothing. -/
theorem powerOnReset_afterReset (s : State) : AfterReset s (powerOnReset s) :=
  { softReset_afterReset s with out := fun j _ => outByte_of_mem_nil rfl j }

theorem reset_afterReset : AfterReset State.reset State.reset :=
  { softReset_afterReset State.reset with out := fun j _ => outByte_of_mem_nil rfl j }

theorem step_powerOn (s : State) :
    step { s with schedule := .powerOn :: s.schedule } = .next (powerOnReset s) := rfl

theorem step_softReset (s : State) {v : Word} (hv : v.getLsbD 0 = true) :
    step (s.nextWrite 0x008 v) = .next (softReset { s with response := none }) := by
  rw [step_nextWrite_ctrl, writeCtrl_of_reset hv]

/-- Settles O47: the first power-on differs from a later one only in the number of its draws, and no
byte of OUTB is a draw. -/
theorem resetSatisfiesInv : Obligations.ResetSatisfiesInv :=
  { inv_powerOnReset State.reset with outTail := fun j _ _ => outByte_of_mem_nil rfl j }

/-! ### Accesses to a BUSY engine -/

section Busy
variable {s : State} {w : Word} {off : Nat}

/-- Of the writes, only one to CTRL with bit 0 set takes the engine out of its command. -/
theorem step_nextWrite_keeps_busy {v : Word} (hb : s.eng = .busy w) (h4 : off % 4 = 0)
    (hoff : off < 0x10000) (hsoft : off ≠ 0x008 ∨ v.getLsbD 0 = false) :
    ∃ t, step (s.nextWrite off v) = .next t ∧ t.eng = .busy w := by
  obtain ⟨hdrop, hctrl, hstatus, hignore, _, _⟩ := busyAccessRules s w v off hb h4 hoff
  by_cases hc : off = 0x008
  · have hv : v.getLsbD 0 = false := hsoft.resolve_left (not_not_intro hc)
    exact ⟨_, hctrl hc, by rw [writeCtrl_of_not_reset hv]; exact hb⟩
  by_cases hs : off = 0x010
  · exact ⟨_, hstatus hs, hb⟩
  by_cases hg : (placeAt s.params off).dropsWhenBusy = true
  · exact ⟨_, hdrop ((dropsWhenBusy_placeAt_iff s.params off).1 hg), hb⟩
  · exact ⟨_, hignore (mt (dropsWhenBusy_placeAt_iff s.params off).2 hg) hc hs, hb⟩

theorem busRead_eng (off : Nat) (s : State) : (busRead off s).eng = s.eng := by
  unfold busRead
  split
  · rfl
  · rfl

theorem step_nextRead_keeps_busy (hb : s.eng = .busy w) (h4 : off % 4 = 0)
    (hoff : off < 0x10000) : ∃ t, step (s.nextRead off) = .next t ∧ t.eng = .busy w :=
  ⟨_, step_nextRead s h4 hoff, (busRead_eng off s).trans hb⟩

end Busy

/-! ### The two statements

The names of the obligations are those of the model's two reset functions, so their theorems stand in
a namespace of their own. -/

namespace Resets

/-- Settles O46: after power-on memory lists nothing, so every byte of IVB and INB is a draw, and a
soft reset keeps the bytes below OUTB. -/
theorem powerOnReset : Obligations.PowerOnReset :=
  ⟨fun s => ⟨_, step_powerOn s, powerOnReset_afterReset s, rfl, rfl, input_bytes_of_mem_nil rfl⟩,
    fun s => ⟨softReset_afterReset s,
      fun _ hj => softReset_byteAt_below_outb s (ivb_below_outb hj),
      fun _ hj => softReset_byteAt_below_outb s (inb_below_outb hj)⟩,
    reset_afterReset, input_bytes_of_mem_nil rfl⟩

/-- Settles O45: the CTRL write is a soft reset of the state without its last bus response, which no
reset looks at, and no other access ends a command. -/
theorem softReset : Obligations.SoftReset :=
  ⟨fun s _ hv => ⟨_, step_softReset s hv, { softReset_afterReset { s with response := none } with },
      rfl, rfl, fun _ => softReset_byteAt { s with response := none }⟩,
    fun _ _ _ _ hb h4 hoff =>
      ⟨step_nextWrite_keeps_busy hb h4 hoff, step_nextRead_keeps_busy hb h4 hoff⟩⟩

end Resets

end Sys2Proof.Machine
end
